-- ==== Sys2Proof/Word.lean ====
section
/-! DEFINITION. The numbers of the WN416: words, addresses, arrival numbers and the names of agents, tags, ports, slots,
buffers, vectors and windows (00_scope.md, 12_formats.md). -/

namespace Sys2Proof

/-- A data byte. -/
abbrev Byte := BitVec 8
/-- A 32-bit word of a link or a management operand (12_formats.md). -/
abbrev Word := BitVec 32
/-- A 40-bit byte address. -/
abbrev Addr := BitVec 40
/-- A 4 KiB page number, 0 to 2^28 - 1 (R1). -/
abbrev Page := BitVec 28
/-- An arrival number (R26). -/
abbrev Arrival := BitVec 32
/-- A bridge time in microseconds (R182). -/
abbrev Time := BitVec 32
/-- A generation number, 0 to 255 (R11). -/
abbrev Generation := BitVec 8
/-- An ordering domain, 0 to 3 (R78). -/
abbrev Domain := BitVec 2
/-- A write sequence number (R41). -/
abbrev WriteSeq := BitVec 16
/-- A duration that software programs, in units of 16 µs (R70, R119). -/
abbrev Duration := BitVec 12
/-- A set of agents, bit n for agent n (12.3, 12.5). -/
abbrev AgentSet := BitVec 8

/-- An agent, 0 to 7. -/
abbrev Agent := Fin 8
/-- An upstream request tag, 0 to 31. -/
abbrev Tag := Fin 32
/-- A downstream port, D0 to D3. -/
abbrev Port := Fin 4
/-- A tracker slot, 0 to 63. -/
abbrev SlotId := Fin 64
/-- A prefetch buffer, 0 to 7. -/
abbrev BufferId := Fin 8
/-- An interrupt vector, 0 to 63. -/
abbrev VectorId := Fin 64
/-- A window entry of a bank, 0 to 31. -/
abbrev WindowId := Fin 32

end Sys2Proof
end

