-- ==== Sys2Proof/Syntax.lean ====
section
/-! DEFINITION. The commands of the WN416: one constructor for each row of spec/opcode_table.json. A packet's fields stand as
its header gives them (12_formats.md), so a field may hold a value outside its range, and beside them the words and the data
bytes that the link framing delivers after the header. -/

namespace Sys2Proof

/-- One of a downstream port's two sending paths (00_scope.md). -/
inductive Lane where
  | posted
  | nonPosted
  deriving DecidableEq, Repr

/-- The status of a downstream completion piece (R65). -/
inductive PieceStatus where
  | good
  | fault
  deriving DecidableEq, Repr

/-- A command of the block, one constructor for each row of the table. -/
inductive Instr where
  /-- COLD_RESET: the reset line is driven low, or power is applied (00_scope.md, R1). -/
  | coldReset
  /-- UPSTREAM_LINK_RESET (R38). -/
  | upstreamLinkReset
  /-- POSTED_WRITE (R22). -/
  | postedWrite (agent : BitVec 4) (length : BitVec 9) (words : List Word) (data : List Byte)
  /-- READ (R22). -/
  | read (agent : BitVec 4) (tag : BitVec 6) (length : BitVec 9) (words : List Word) (data : List Byte)
  /-- NON_POSTED_WRITE (R22). -/
  | nonPostedWrite (agent : BitVec 4) (tag : BitVec 6) (length : BitVec 9) (words : List Word) (data : List Byte)
  /-- EXCLUSIVE_READ (R22). -/
  | exclusiveRead (agent : BitVec 4) (tag : BitVec 6) (length : BitVec 9) (words : List Word) (data : List Byte)
  /-- EXCLUSIVE_WRITE (R22). -/
  | exclusiveWrite (agent : BitVec 4) (tag : BitVec 6) (length : BitVec 9) (words : List Word) (data : List Byte)
  /-- EXCLUSIVE_RELEASE (R22). -/
  | exclusiveRelease (agent : BitVec 4) (tag : BitVec 6) (words : List Word) (data : List Byte)
  /-- MANAGEMENT_REQUEST (R22): the words are its operand words. -/
  | managementRequest (agent : BitVec 4) (tag : BitVec 6) (operation : BitVec 4) (index : BitVec 7)
      (words : List Word) (data : List Byte)
  /-- SERVICE_DONE (R24, R149). -/
  | serviceDone (agent : BitVec 4) (vector : BitVec 7) (words : List Word) (data : List Byte)
  /-- UNKNOWN_KIND_PACKET (R22): a kind code of 8 to 15 (R185). -/
  | unknownKindPacket (kind : BitVec 4) (agent : BitVec 4)
  /-- POSTED_INTAKE_EXIT (R29). -/
  | postedIntakeExit
  /-- NON_POSTED_INTAKE_EXIT (R32). -/
  | nonPostedIntakeExit
  /-- POSTED_WRITE_SEND (R45). -/
  | postedWriteSend (port : Port)
  /-- NON_POSTED_SEND (R63). -/
  | nonPostedSend (port : Port)
  /-- READY_MESSAGE (R128). -/
  | readyMessage (port : Port) (postedGrant nonPostedGrant : BitVec 6)
  /-- CREDIT_RETURN (R131). -/
  | creditReturn (port : Port) (lane : Lane) (count : BitVec 6)
  /-- RECEIPT (R48). -/
  | receipt (port : Port) (seq : WriteSeq)
  /-- COMPLETION_PIECE (R65): the tag is the 8-bit downstream tag. -/
  | completionPiece (port : Port) (tag : BitVec 8) (status : PieceStatus) (offset : BitVec 8) (count : BitVec 9)
      (data : List Byte)
  /-- INTERRUPT_MESSAGE (R139). -/
  | interruptMessage (port : Port) (vector : BitVec 7)
  /-- MALFORMED_MESSAGE (R186). -/
  | malformedMessage (port : Port)
  /-- PORT_LINK_FAULT (R135). -/
  | portLinkFault (port : Port)
  /-- COMPLETION_TIMER_EXPIRY (R71, R72). -/
  | completionTimerExpiry (slot : SlotId)
  /-- ORPHAN_TIMER_EXPIRY (R73). -/
  | orphanTimerExpiry (slot : SlotId)
  /-- HOLD_TIMER_EXPIRY (R119). -/
  | holdTimerExpiry (port : Port)
  /-- COMMIT_DRAIN_END (R17). -/
  | commitDrainEnd
  /-- MANAGEMENT_TAKE (R161). -/
  | managementTake
  /-- UNDEFINED_OPERATION (R163). -/
  | undefinedOperation
  /-- READ_REGISTER (R167). -/
  | readRegister
  /-- READ_ERROR_QUEUE_STATUS (R167). -/
  | readErrorQueueStatus
  /-- WRITE_REGISTER (R168): a read-only or unnamed register. -/
  | writeRegister
  /-- WRITE_MANAGEMENT_AGENT_MASK (R169). -/
  | writeManagementAgentMask
  /-- WRITE_MISS_POLICY (R5). -/
  | writeMissPolicy
  /-- WRITE_COMPLETION_TIMEOUT (R70). -/
  | writeCompletionTimeout
  /-- WRITE_EXCLUSIVE_HOLD_LIMIT (R119). -/
  | writeExclusiveHoldLimit
  /-- WRITE_AGENT_INTERRUPT_MASKS (R156). -/
  | writeAgentInterruptMasks
  /-- STAGE_WINDOW (R14). -/
  | stageWindow
  /-- READ_WINDOW (R15). -/
  | readWindow
  /-- COMMIT_WINDOWS (R16). -/
  | commitWindows
  /-- PORT_CONTROL_ENABLE (R127). -/
  | portControlEnable
  /-- PORT_CONTROL_DISABLE (R137). -/
  | portControlDisable
  /-- PORT_CONTROL_RESTART (R126). -/
  | portControlRestart
  /-- WRITE_VECTOR (R154). -/
  | writeVector
  /-- READ_VECTOR (R155). -/
  | readVector
  /-- TAKE_ERROR_RECORD (R173). -/
  | takeErrorRecord
  /-- BRIDGE_TIME_ADVANCE (R182). -/
  | bridgeTimeAdvance
  /-- EGRESS_TRANSMISSION (R36). -/
  | egressTransmission
  deriving DecidableEq, Repr

end Sys2Proof
end

