-- ==== Sys2Proof/Decode.lean ====
section
/-! DEFINITION. Reading packets: the command that an upstream packet or a downstream message spells, from the layouts of
12_formats.md (R185, R186), and the host's reading of a table row's bits (no row of the table has any). -/

namespace Sys2Proof

/-- `count` bits of a word from bit `low` up. -/
def field (w : Word) (low count : Nat) : BitVec count := w.extractLsb' low count

/-- An upstream packet, by its word 0 and the words and data bytes framed after it (12.1, R185). -/
def upstreamCommand (header : Word) (words : List Word) (data : List Byte) : Instr :=
  let agent : BitVec 4 := field header 4 4
  let tag : BitVec 6 := field header 8 6
  let length : BitVec 9 := field header 14 9
  let seven : BitVec 7 := field header 14 7
  match (field header 0 4).toNat with
  | 0 => .postedWrite agent length words data
  | 1 => .read agent tag length words data
  | 2 => .nonPostedWrite agent tag length words data
  | 3 => .exclusiveRead agent tag length words data
  | 4 => .exclusiveWrite agent tag length words data
  | 5 => .exclusiveRelease agent tag words data
  | 6 => .managementRequest agent tag (field header 21 4) seven words data
  | 7 => .serviceDone agent seven words data
  | _ => .unknownKindPacket (field header 0 4) agent

/-- A message from the target of `port`, by its word 0 and what is framed after it (12.2, R186). -/
def downstreamCommand (port : Port) (header : Word) (words : List Word) (data : List Byte) : Instr :=
  let alone : Bool := words.isEmpty && data.isEmpty
  match (field header 0 4).toNat with
  | 8 => if alone then .readyMessage port (field header 4 6) (field header 10 6) else .malformedMessage port
  | 9 =>
    match (field header 4 2).toNat with
    | 0 => if alone then .creditReturn port .posted (field header 6 6) else .malformedMessage port
    | 1 => if alone then .creditReturn port .nonPosted (field header 6 6) else .malformedMessage port
    | _ => .malformedMessage port
  | 10 => if alone then .receipt port (field header 4 16) else .malformedMessage port
  | 11 =>
    match (field header 12 2).toNat with
    | 0 => .completionPiece port (field header 4 8) .good (field header 14 8) (field header 22 9) data
    | 1 =>
      if data.isEmpty then .completionPiece port (field header 4 8) .fault (field header 14 8) (field header 22 9) data
      else .malformedMessage port
    | _ => .malformedMessage port
  | 12 => if alone then .interruptMessage port (field header 4 7) else .malformedMessage port
  | _ => .malformedMessage port

/-- The command a word spells by the table's bits: spec/opcode_table.json gives no row any bits, so no word spells one. -/
def decodeTableWord (_nbits _w : Nat) : Option Instr := none

end Sys2Proof
end

