-- ==== Sys2Proof/Config.lean ====
section
/-! DEFINITION. What is fixed for the part: the capacities of its queues, its identity, and the values the spec leaves open. -/

namespace Sys2Proof.Config

/-- Entries of the posted intake (R27). -/
def postedIntakeSize : Nat := 16
/-- Entries of the non-posted intake (R27). -/
def nonPostedIntakeSize : Nat := 16
/-- Entries of the management intake (R27). -/
def managementIntakeSize : Nat := 2
/-- Entries of one posted write queue (R40). -/
def queueSize : Nat := 16
/-- Records the error record queue holds (R176). -/
def recordQueueSize : Nat := 32
/-- The identity register's vendor code (R167). -/
def vendorCode : BitVec 12 := 0x0D5#12
/-- The identity register's part code (R167). -/
def partCode : BitVec 12 := 0x416#12
/-- The identity register's revision (R167). -/
def revision : BitVec 8 := 2#8

/-- FREE VALUE (log 7, DESIGN CHOICE). The 40 address bits of an address-carrying packet that was framed with fewer than two
address words: the spec drops such a packet (R185) and states no value for the bits that did not arrive. -/
opaque freeAddress : Nat → Addr

end Sys2Proof.Config
end

