-- ==== Sys2Proof/Machine/State.lean ====
section
/-! DEFINITION. Everything the spec gives the WN416 to hold, as plain data, and its state right after a cold reset. -/

namespace Sys2Proof.Machine

/-! ## Windows (01_address_windows.md) -/

/-- The two banks (R1). -/
inductive BankName where
  | a
  | b
  deriving DecidableEq, Repr

/-- Where a window's traffic goes (R1). -/
inductive Target where
  | port (p : Port)
  | sink
  deriving DecidableEq, Repr

/-- The ordering class of a window (R78). -/
inductive OrderClass where
  | strict
  | relaxed
  deriving DecidableEq, Repr

/-- The twelve fields of a window entry (R1). -/
structure WindowEntry where
  valid : Bool
  base : Page
  limit : Page
  target : Target
  downBase : Page
  readRight : Bool
  writeRight : Bool
  exclusiveRight : Bool
  agents : AgentSet
  prefetchable : Bool
  cls : OrderClass
  domain : Domain
  deriving DecidableEq, Repr

/-- The drain record while it is Draining (R17). -/
structure DrainRecord where
  generation : Generation
  agent : Agent
  tag : Tag
  suppressed : Bool
  deriving DecidableEq, Repr

/-! ## Requests in the intakes and the egress queue (02_arrival_intake_and_egress.md) -/

/-- The kinds of non-posted request that carry an address, and that a slot can hold (R56). -/
inductive SlotKind where
  | read
  | nonPostedWrite
  | exclusiveRead
  | exclusiveWrite
  deriving DecidableEq, Repr

/-- The upstream packet kinds the agents send, as records name them (12.1, 12.4). -/
inductive UpKind where
  | postedWrite
  | read
  | nonPostedWrite
  | exclusiveRead
  | exclusiveWrite
  | exclusiveRelease
  | managementRequest
  | serviceDone
  deriving DecidableEq, Repr

/-- The three classes of request (R21). -/
inductive CreditClass where
  | posted
  | nonPosted
  | management
  deriving DecidableEq, Repr

/-- An entry of the posted intake (R21, R27). -/
structure PostedEntry where
  agent : Agent
  address : Addr
  length : Nat
  data : List Byte
  arrival : Arrival
  deriving DecidableEq, Repr

/-- What a non-posted request asks for: an access, or an exclusive release, which carries no address (R2, R21). -/
inductive NonPostedBody where
  | access (kind : SlotKind) (address : Addr) (length : Nat) (data : List Byte)
  | release
  deriving DecidableEq, Repr

/-- An entry of the non-posted intake (R21, R27). -/
structure NonPostedEntry where
  agent : Agent
  tag : Tag
  body : NonPostedBody
  arrival : Arrival
  deriving DecidableEq, Repr

/-- A management request, in its intake or as the current request (R21, R161). -/
structure ManagementEntry where
  agent : Agent
  tag : Tag
  operation : BitVec 4
  index : BitVec 6
  words : List Word
  arrival : Arrival
  deriving DecidableEq, Repr

/-- The statuses of a completion (R35, 12.1). -/
inductive Status where
  | done
  | refused
  | unmapped
  | expired
  | portLost
  | targetFault
  | broken
  | misuse
  | busy
  | invalid
  deriving DecidableEq, Repr

/-- A completion: the identifier it answers, its status, its data bytes and its result words (R35). -/
structure Completion where
  agent : Agent
  tag : Tag
  status : Status
  data : List Byte
  words : List Word
  deriving DecidableEq, Repr

/-- The packets the part sends upstream (R36). A credit return's count is always 1 (R28). -/
inductive EgressPacket where
  | completion (c : Completion)
  | interrupt (agent : Agent) (vector : VectorId)
  | creditReturn (cls : CreditClass)
  deriving DecidableEq, Repr

/-- The upstream credits the agents hold together (R28). -/
structure AgentCredits where
  posted : Nat
  nonPosted : Nat
  management : Nat
  deriving DecidableEq, Repr

/-! ## Posted write queues (03_posted_write_queues.md) -/

/-- An entry of a posted write queue (R41): `sent` is its write sequence number, absent while the entry is Queued. -/
structure QueueEntry where
  arrival : Arrival
  generation : Generation
  domain : Domain
  address : Addr
  length : Nat
  data : List Byte
  sent : Option WriteSeq
  deriving DecidableEq, Repr

/-- A posted write queue, oldest entry first, and its port's next write sequence number (R40). -/
structure PostedQueue where
  entries : List QueueEntry
  nextSeq : WriteSeq
  deriving DecidableEq, Repr

/-! ## Request tracker (04_request_tracker.md) -/

/-- The states of a slot that is not FREE (R55). -/
inductive SlotState where
  | lockWait
  | fenceWait
  | ready
  | sent
  | assembling
  | fillWait
  | orphaned
  deriving DecidableEq, Repr

/-- A slot's part in a fill (R56). -/
inductive FillLink where
  | leader (b : BufferId)
  | follower (b : BufferId)
  deriving DecidableEq, Repr

/-- The record of a slot that is not FREE (R56). `received` is the data area of a read over its downstream read range: the
byte at an offset, once that offset is among the bytes received. `expiry` is the expiry time of the slot's running timer: the
completion timer, or the orphan timer while ORPHANED. `exited` is the model's own mark (log 12): the slot waited in
LOCK_WAIT or FENCE_WAIT through an exit of its port. -/
structure SlotUse where
  state : SlotState
  agent : Agent
  tag : Tag
  kind : SlotKind
  arrival : Arrival
  generation : Generation
  port : Port
  address : Addr
  length : Nat
  cls : OrderClass
  domain : Domain
  prefetchable : Bool
  writeData : List Byte
  received : List (Option Byte)
  fillLink : Option FillLink
  mute : Bool
  expiry : Time
  timeoutAtAllocation : Duration
  exited : Bool
  deriving DecidableEq, Repr

/-- A slot: its epoch, which outlives its uses, and its record, absent while it is FREE (R55). -/
structure Slot where
  epoch : BitVec 2
  use : Option SlotUse
  deriving DecidableEq, Repr

/-! ## Prefetch buffers (06_prefetch_buffers.md) -/

/-- The downstream block a buffer holds or fetches: its port, and an address that is a multiple of 256 (R92, R93). -/
structure BufferKey where
  port : Port
  block : Addr
  deriving DecidableEq, Repr

/-- A prefetch buffer in one of its four states, with what it holds there (R92). -/
inductive Buffer where
  | free
  | filling (key : BufferKey) (leader : SlotId) (followers : List SlotId)
  | stale (key : BufferKey) (leader : SlotId) (followers : List SlotId)
  | valid (key : BufferKey) (data : List Byte)
  deriving DecidableEq, Repr

/-! ## Exclusive sequences (07_exclusive_sequences.md) -/

/-- A port lock in one of its three states (R109): the owner, the claiming arrival number and, while Claimed, the claiming
slot, or, while Held, the expiry time of the hold timer. -/
inductive Lock where
  | opened
  | claimed (owner : Agent) (arrival : Arrival) (slot : SlotId)
  | held (owner : Agent) (arrival : Arrival) (expiry : Time)
  deriving DecidableEq, Repr

/-! ## Downstream ports (08_downstream_ports.md) -/

/-- The states of a port (R125). -/
inductive PortState where
  | disabled
  | waiting
  | active
  | failed
  deriving DecidableEq, Repr

/-- The causes of a port failure (R134 to R136), in the order of their codes (12.4). -/
inductive FaultCause where
  | badReceipt
  | badPiece
  | badCreditReturn
  | unexpectedReady
  | malformedMessage
  | linkFault
  | badReady
  deriving DecidableEq, Repr

/-- A port record (R125). -/
structure PortRecord where
  state : PortState
  postedCredit : Nat
  nonPostedCredit : Nat
  postedGrant : Nat
  nonPostedGrant : Nat
  lastWinner : Lane
  lastFault : Option FaultCause
  deriving DecidableEq, Repr

/-- The packets a port sends to its target (R45, R64, 12.2). -/
inductive DownstreamPacket where
  | postedWrite (seq : WriteSeq) (address : Addr) (length : Nat) (data : List Byte)
  | read (tag : BitVec 8) (address : Addr) (length : Nat)
  | nonPostedWrite (tag : BitVec 8) (address : Addr) (length : Nat) (data : List Byte)
  deriving DecidableEq, Repr

/-! ## Interrupt steering (09_interrupt_steering.md) -/

/-- How a vector entry chooses an agent (R142). -/
inductive SteerMode where
  | fixed
  | rotate
  | leastBusy
  deriving DecidableEq, Repr

/-- The state of a vector entry: the serving agent is present exactly while it is InService (R142). -/
inductive VectorState where
  | idle
  | pending
  | inService (agent : Agent)
  deriving DecidableEq, Repr

/-- A vector entry (R142). -/
structure VectorEntry where
  enabled : Bool
  mode : SteerMode
  agents : AgentSet
  fixedAgent : Agent
  cursor : Agent
  state : VectorState
  again : Bool
  deriving DecidableEq, Repr

/-! ## Error records (11_error_records.md) -/

/-- Malformed causes (R23). -/
inductive MalformedCause where
  | unknownKind
  | fieldRange
  | length
  | blockBoundary
  | dataCount
  deriving DecidableEq, Repr

/-- PostedDiscarded causes (R52). -/
inductive DiscardCause where
  | failed
  | disabled
  deriving DecidableEq, Repr

/-- StaleCompletion causes (R179). -/
inductive StaleCause where
  | slotFree
  | takesNoPieces
  | epochDiffers
  | otherPort
  deriving DecidableEq, Repr

/-- The state of a lock at its break (R120). -/
inductive BrokenState where
  | claimed
  | held
  deriving DecidableEq, Repr

/-- ExclusiveBroken causes (R120). -/
inductive BreakCause where
  | holdExpiry
  | portFailed
  | portDisabled
  | upstreamReset
  deriving DecidableEq, Repr

/-- ExclusiveMisuse causes (R111, R114, R115, R179). -/
inductive MisuseCause where
  | sequenceInProgress
  | noLock
  | otherPort
  | notHeld
  | sink
  deriving DecidableEq, Repr

/-- ServiceMismatch causes (R150). -/
inductive MismatchCause where
  | idle
  | pending
  | otherAgent
  deriving DecidableEq, Repr

/-- The eighteen kinds of record, each with the optional fields the table of R178 says it carries. -/
inductive RecordBody where
  | malformed (cause : MalformedCause) (agent : Option Agent) (tag : Option Tag) (address : Option Addr)
  | duplicateTag (agent : Agent) (tag : Tag) (kind : UpKind)
  | overrun (agent : Agent) (intake : CreditClass)
  | unmapped (agent : Agent) (address : Addr) (tag : Option Tag)
  | refused (agent : Agent) (address : Addr) (window : WindowId) (tag : Option Tag)
  | postedDropped (agent : Agent) (address : Addr) (port : Port)
  | postedDiscarded (port : Port) (count : Nat) (cause : DiscardCause)
  | completionExpired (agent : Agent) (tag : Tag) (port : Port) (slot : SlotId) (state : SlotState)
  | lateCompletion (port : Port) (slot : SlotId) (status : PieceStatus)
  | orphanExpired (port : Port) (slot : SlotId)
  | staleCompletion (port : Port) (slot : SlotId) (status : PieceStatus) (cause : StaleCause)
  | portFault (port : Port) (state : PortState) (cause : FaultCause) (slot : Option SlotId)
  | exclusiveBroken (port : Port) (owner : Agent) (state : BrokenState) (cause : BreakCause)
  | exclusiveMisuse (agent : Agent) (tag : Tag) (kind : UpKind) (cause : MisuseCause) (window : Option WindowId)
  | badInterrupt (port : Port) (vector : BitVec 7)
  | serviceMismatch (agent : Agent) (vector : VectorId) (cause : MismatchCause)
  | managementRefused (agent : Agent) (tag : Tag) (operation : BitVec 4) (index : BitVec 6)
  | upstreamReset (count : Nat)
  deriving DecidableEq, Repr

/-- A record: the bridge time of its event and what it says (R178). -/
structure ErrorRecord where
  time : Time
  body : RecordBody
  deriving DecidableEq, Repr

/-! ## The state -/

/-- All the part holds (INVENTORY.md, heading State), the queue of commands that wait, and the model's own fields: the
records of what left on the links (log 11) and the counter of the free values (log 7). -/
structure State where
  bankA : Vector WindowEntry 32
  bankB : Vector WindowEntry 32
  activeBank : BankName
  generation : Generation
  counts : Vector Nat 256
  missRecords : Bool
  drain : Option DrainRecord
  ids : Vector Bool 256
  arrivalCounter : Arrival
  postedIntake : List PostedEntry
  nonPostedIntake : List NonPostedEntry
  managementIntake : List ManagementEntry
  agentCredits : AgentCredits
  egress : List EgressPacket
  upstreamLink : List EgressPacket
  pwqs : Vector PostedQueue 4
  slots : Vector Slot 64
  dispatch : Vector (List SlotId) 4
  timeout : Duration
  fenceOrder : List SlotId
  buffers : Vector Buffer 8
  lru : List BufferId
  locks : Vector Lock 4
  waiting : Vector (List SlotId) 4
  broken : AgentSet
  holdLimit : Duration
  ports : Vector PortRecord 4
  downstreamLinks : Vector (List DownstreamPacket) 4
  vectors : Vector VectorEntry 64
  agentMasks : AgentSet
  serviceCounts : Vector Nat 8
  current : Option ManagementEntry
  managementMask : AgentSet
  records : List ErrorRecord
  overflow : Bool
  bridgeTime : Time
  freeReads : Nat
  pending : List Instr
  deriving DecidableEq, Repr

/-- The spec gives the block no event that stops it: every fault of the manual is a change of a port's state, a record or a
status (R22, R136, R163). So no step ends in a fault, and the type has no constructor. -/
inductive Fault where
  deriving DecidableEq, Repr

/-- Why the model has no meaning for a command. -/
inductive Refusal where
  /-- Raised by an arm of `exec` whose command has no meaning yet; safe, since the model then says nothing. No arm raises it. -/
  | notModelled (mnemonic : String)
  deriving DecidableEq, Repr

/-! ## Cold reset (00_scope.md, Resets) -/

/-- A window entry after cold reset (R1). -/
def WindowEntry.reset : WindowEntry :=
  { valid := false, base := 0, limit := 0, target := .port 0, downBase := 0, readRight := false, writeRight := false,
    exclusiveRight := false, agents := 0, prefetchable := false, cls := .strict, domain := 0 }

/-- The agents' credits after either reset (R28). -/
def AgentCredits.full : AgentCredits := { posted := 16, nonPosted := 16, management := 2 }

/-- A port record after cold reset (R125). -/
def PortRecord.reset : PortRecord :=
  { state := .disabled, postedCredit := 0, nonPostedCredit := 0, postedGrant := 0, nonPostedGrant := 0,
    lastWinner := .nonPosted, lastFault := none }

/-- A vector entry after cold reset: only vector 0 is enabled (R142). -/
def VectorEntry.reset (enabled : Bool) : VectorEntry :=
  { enabled, mode := .fixed, agents := 0, fixedAgent := 0, cursor := 7, state := .idle, again := false }

/-- The part right after a cold reset, with no command waiting. -/
def State.reset : State :=
  { bankA := Vector.replicate 32 WindowEntry.reset
    bankB := Vector.replicate 32 WindowEntry.reset
    activeBank := .a
    generation := 0
    counts := Vector.replicate 256 0
    missRecords := true
    drain := none
    ids := Vector.replicate 256 false
    arrivalCounter := 0
    postedIntake := []
    nonPostedIntake := []
    managementIntake := []
    agentCredits := AgentCredits.full
    egress := []
    upstreamLink := []
    pwqs := Vector.replicate 4 { entries := [], nextSeq := 0 }
    slots := Vector.replicate 64 { epoch := 0, use := none }
    dispatch := Vector.replicate 4 []
    timeout := 1024
    fenceOrder := []
    buffers := Vector.replicate 8 .free
    lru := []
    locks := Vector.replicate 4 .opened
    waiting := Vector.replicate 4 []
    broken := 0
    holdLimit := 256
    ports := Vector.replicate 4 PortRecord.reset
    downstreamLinks := Vector.replicate 4 []
    vectors := (Vector.replicate 64 (VectorEntry.reset false)).set 0 (VectorEntry.reset true)
    agentMasks := 0
    serviceCounts := Vector.replicate 8 0
    current := none
    managementMask := 1
    records := []
    overflow := false
    bridgeTime := 0
    freeReads := 0
    pending := [] }

end Sys2Proof.Machine
end

