-- ==== Sys2Proof/Machine/Ops.lean ====
section
/-! DEFINITION. The named operations that every block's meaning uses: tables, sets of agents, arrival order, error records,
the egress queue and the identifier set, generation counts and the commit drain, and the slots of the tracker. -/

namespace Sys2Proof.Machine

/-! ## Tables, sets and lists -/

/-- The element of a table at an index. -/
def peek {α : Type} {n : Nat} (v : Vector α n) (i : Fin n) : α := v[i.val]

/-- A table with one element replaced. -/
def poke {α : Type} {n : Nat} (v : Vector α n) (i : Fin n) (a : α) : Vector α n := v.set i.val a

/-- Whether an agent is in a set. -/
def hasAgent (m : AgentSet) (a : Agent) : Bool := m.getLsbD a.val

/-- A set with an agent put in. -/
def addAgent (m : AgentSet) (a : Agent) : AgentSet := m ||| BitVec.twoPow 8 a.val

/-- A set with an agent taken out. -/
def dropAgent (m : AgentSet) (a : Agent) : AgentSet := m &&& ~~~ BitVec.twoPow 8 a.val

/-- The eight agents, lowest first. -/
def allAgents : List Agent := List.finRange 8
/-- The four ports, D0 to D3. -/
def allPorts : List Port := List.finRange 4
/-- The 64 slots, lowest first. -/
def allSlots : List SlotId := List.finRange 64
/-- The eight buffers, lowest first. -/
def allBuffers : List BufferId := List.finRange 8
/-- The 64 vectors, lowest first. -/
def allVectors : List VectorId := List.finRange 64
/-- The 32 window entries of a bank, lowest first. -/
def allWindows : List WindowId := List.finRange 32

/-- A list of slots without one of them. -/
def without {α : Type} [DecidableEq α] (a : α) (l : List α) : List α := l.filter (fun b => b ≠ a)

/-! ## Arrival order (R26) -/

/-- R26: `a` is earlier than `b` when `b` minus `a`, modulo 2^32 and read as a signed quantity, is above 0. -/
def earlier (a b : Arrival) : Bool := decide (0 < (b - a).toInt)

/-- A list of slots in arrival order, with `i` put at its arrival-number position (R62, R82, R110). -/
def insertByArrival (number : SlotId → Arrival) (i : SlotId) : List SlotId → List SlotId
  | [] => [i]
  | j :: rest => if earlier (number i) (number j) then i :: j :: rest else j :: insertByArrival number i rest

/-- Slots in arrival order, with others put at their arrival-number positions. -/
def mergeByArrival (number : SlotId → Arrival) (others l : List SlotId) : List SlotId :=
  others.foldl (fun acc i => insertByArrival number i acc) l

/-! ## Error records (R177) -/

/-- R177, R178: a record joins the newest end, stamped with the bridge time, or is lost and sets the overflow flag. Vector 0
is raised at the end of the event (`raiseOnFirstRecord`, R148, R151). -/
def storeRecord (b : RecordBody) (s : State) : State :=
  if s.records.length < Config.recordQueueSize then
    { s with records := s.records ++ [{ time := s.bridgeTime, body := b }] }
  else { s with overflow := true }

/-! ## Egress queue and identifiers (R25, R36) -/

/-- R36: a packet is placed at the end of the egress queue. -/
def appendEgress (p : EgressPacket) (s : State) : State := { s with egress := s.egress ++ [p] }

/-- The place of an identifier among the 256 (R25). -/
def idIndex (a : Agent) (t : Tag) : Fin 256 := ⟨a.val * 32 + t.val, by omega⟩

/-- Whether an identifier is outstanding (R25). -/
def outstanding (a : Agent) (t : Tag) (s : State) : Bool := peek s.ids (idIndex a t)

/-- An identifier enters the set (R25). -/
def takeIdentifier (a : Agent) (t : Tag) (s : State) : State := { s with ids := poke s.ids (idIndex a t) true }

/-- R25: a completion is appended and its identifier leaves the set in the same event. -/
def appendCompletion (c : Completion) (s : State) : State :=
  { appendEgress (.completion c) s with ids := poke s.ids (idIndex c.agent c.tag) false }

/-- The number of identifiers in the set (R179). -/
def identifierCount (s : State) : Nat := s.ids.toList.countP id

/-! ## Banks, generations and the commit drain (R1, R12, R17) -/

/-- The bank used for decoding (R1). -/
def activeEntries (s : State) : Vector WindowEntry 32 :=
  match s.activeBank with
  | .a => s.bankA
  | .b => s.bankB

/-- The bank of a name (R15). -/
def bankOf (name : BankName) (s : State) : Vector WindowEntry 32 :=
  match name with
  | .a => s.bankA
  | .b => s.bankB

/-- The staged bank with one entry replaced (R14). -/
def stageEntry (i : WindowId) (w : WindowEntry) (s : State) : State :=
  match s.activeBank with
  | .a => { s with bankB := poke s.bankB i w }
  | .b => { s with bankA := poke s.bankA i w }

/-- R17: every entry of the staged bank becomes a copy of the active bank's. -/
def copyActiveBank (s : State) : State :=
  match s.activeBank with
  | .a => { s with bankB := s.bankA }
  | .b => { s with bankA := s.bankB }

/-- R17, R19: the drain ends: the staged bank is the copy, the record is None, and the commit's Done is appended unless it is
suppressed. -/
def endDrain (s : State) : State :=
  match s.drain with
  | none => s
  | some d =>
    let ended : State := { copyActiveBank s with drain := none }
    if d.suppressed then ended
    else appendCompletion { agent := d.agent, tag := d.tag, status := .done, data := [], words := [] } ended

/-- The place of a generation among the 256. -/
def genIndex (g : Generation) : Fin 256 := ⟨g.toNat, g.isLt⟩

/-- The outstanding count of a generation (R12). -/
def countOf (g : Generation) (s : State) : Nat := peek s.counts (genIndex g)

/-- R17: the drain ends if it is running and the drained generation's count is 0. -/
def endDrainIfDone (s : State) : State :=
  match s.drain with
  | none => s
  | some d => if countOf d.generation s = 0 then endDrain s else s

/-- R12: an item of a generation becomes outstanding. -/
def countUp (g : Generation) (s : State) : State := { s with counts := poke s.counts (genIndex g) (countOf g s + 1) }

/-- R12, R17: an item of a generation has left; the decrease that brings the drained generation's count to 0 ends the drain. -/
def countDown (g : Generation) (s : State) : State :=
  let s1 : State := { s with counts := poke s.counts (genIndex g) (countOf g s - 1) }
  match s.drain with
  | none => s1
  | some d => if d.generation = g then endDrainIfDone s1 else s1

/-! ## Slots (R55, R56) -/

/-- The record of a slot, absent while it is FREE. -/
def slotUse (s : State) (i : SlotId) : Option SlotUse := (peek s.slots i).use

/-- A slot with another record, its epoch kept. -/
def putUse (i : SlotId) (u : Option SlotUse) (s : State) : State :=
  { s with slots := poke s.slots i { epoch := (peek s.slots i).epoch, use := u } }

/-- The arrival number of the request a slot holds. -/
def arrivalOf (s : State) (i : SlotId) : Arrival :=
  match slotUse s i with
  | some u => u.arrival
  | none => 0

/-- R55: the downstream tag of a slot: its number multiplied by 4, plus its epoch. -/
def downstreamTag (s : State) (i : SlotId) : BitVec 8 := BitVec.ofNat 6 i.val ++ (peek s.slots i).epoch

/-- A read or an exclusive read, whose completion carries data (R35). -/
def returnsData : SlotKind → Bool
  | .read => true
  | .exclusiveRead => true
  | .nonPostedWrite => false
  | .exclusiveWrite => false

/-- R35: the data of a completion whose status is not Done. -/
def failData (k : SlotKind) (length : Nat) : List Byte := if returnsData k then List.replicate length 0xFF#8 else []

/-- R69: the completion of a slot's request is appended, unless the slot is muted. -/
def reply (u : SlotUse) (st : Status) (data : List Byte) (s : State) : State :=
  if u.mute then s else appendCompletion { agent := u.agent, tag := u.tag, status := st, data, words := [] } s

/-- R69: a slot becomes FREE and its generation's count decreases. -/
def freeSlot (i : SlotId) (s : State) : State :=
  match slotUse s i with
  | none => s
  | some u => countDown u.generation (putUse i none s)

/-- R69: a slot is answered and becomes FREE. -/
def answerSlot (i : SlotId) (st : Status) (data : List Byte) (s : State) : State :=
  match slotUse s i with
  | none => s
  | some u => freeSlot i (reply u st data s)

/-- A slot leaves the waiting order, the fence-waiting order, the dispatch list or the follower list that holds it
(R62, R71, R82, R110). -/
def leaveLists (i : SlotId) (u : SlotUse) (s : State) : State :=
  match u.state with
  | .lockWait => { s with waiting := poke s.waiting u.port (without i (peek s.waiting u.port)) }
  | .fenceWait => { s with fenceOrder := without i s.fenceOrder }
  | .ready => { s with dispatch := poke s.dispatch u.port (without i (peek s.dispatch u.port)) }
  | .fillWait =>
    match u.fillLink with
    | some (.follower b) =>
      { s with
        buffers := poke s.buffers b
          (match peek s.buffers b with
          | .filling k l fs => .filling k l (without i fs)
          | .stale k l fs => .stale k l (without i fs)
          | other => other) }
    | _ => s
  | .sent => s
  | .assembling => s
  | .orphaned => s

/-! ## Time (R70, R119, R182) -/

/-- The bridge time a programmed duration after a bridge time, in units of 16 µs (R70). -/
def after (t : Time) (d : Duration) : Time := t + d.setWidth 32 * 16

/-- R182: whether a timer's expiry time has come; the comparison is modulo 2^32, so it holds across the wrap (log 4). -/
def due (now expiry : Time) : Bool := decide (0 ≤ (now - expiry).toInt)

end Sys2Proof.Machine
end

