-- ==== Sys2Proof/Machine/Operands.lean ====
section
/-! DEFINITION. The layouts of 12_formats.md: the fields of arriving packets, the operand and result words of management
requests, the register words, the words of an error record, and the packets the part sends. -/

namespace Sys2Proof.Machine

/-- `count` bits of a word from bit `low` up. -/
def bits (w : Word) (low count : Nat) : BitVec count := w.extractLsb' low count

/-- A yes-or-no field as one bit. -/
def bit (b : Bool) : BitVec 1 := BitVec.ofBool b

/-! ## Fields of arriving packets (12.1, R185) -/

/-- The agent of a header, if the field is within 0 to 7 (R23). -/
def agentOfField (f : BitVec 4) : Option Agent := if h : f.toNat < 8 then some ⟨f.toNat, h⟩ else none

/-- The tag of a header, if the field is within 0 to 31 (R23). -/
def tagOfField (f : BitVec 6) : Option Tag := if h : f.toNat < 32 then some ⟨f.toNat, h⟩ else none

/-- The vector of a Service Done or an interrupt message, if the field is within 0 to 63. -/
def vectorOfField (f : BitVec 7) : Option VectorId := if h : f.toNat < 64 then some ⟨f.toNat, h⟩ else none

/-- The index of a management request, if the field is within 0 to 63. -/
def indexOfField (f : BitVec 7) : Option (BitVec 6) := if f.toNat < 64 then some (f.setWidth 6) else none

/-- The address of its two words: bits 31:0, then bits 39:32 in bits 7:0 of the second; words after them are ignored (log 8). A
word that was not delivered leaves its bits free (log 7). -/
def addressOfWords (words : List Word) (free : Addr) : Addr :=
  match words with
  | low :: high :: _ => bits high 0 8 ++ low
  | low :: [] => free.extractLsb' 32 8 ++ low
  | [] => free

/-! ## Window entries (12.3) -/

/-- The code of a target. -/
def targetCode : Target → BitVec 3
  | .port p => BitVec.ofNat 3 p.val
  | .sink => 4#3

/-- The target a code names, if any. -/
def targetOfCode (c : BitVec 3) : Option Target :=
  if h : c.toNat < 4 then some (.port ⟨c.toNat, h⟩) else if c = 4#3 then some .sink else none

/-- The class bit of a window entry. -/
def classBit : OrderClass → BitVec 1
  | .strict => 0#1
  | .relaxed => 1#1

/-- The four words of a window entry. -/
def windowWords (w : WindowEntry) : List Word :=
  [bit w.valid ++ targetCode w.target ++ w.base,
   bit w.prefetchable ++ bit w.exclusiveRight ++ bit w.writeRight ++ bit w.readRight ++ w.limit,
   0#1 ++ w.domain ++ classBit w.cls ++ w.downBase,
   0#24 ++ w.agents]

/-- The window entry that four operand words hold, if the target code names one; other bits are ignored (R187). -/
def windowOfWords (w0 w1 w2 w3 : Word) : Option WindowEntry :=
  match targetOfCode (bits w0 28 3) with
  | none => none
  | some t => some
    { valid := w0.getLsbD 31, base := bits w0 0 28, limit := bits w1 0 28, target := t, downBase := bits w2 0 28,
      readRight := w1.getLsbD 28, writeRight := w1.getLsbD 29, exclusiveRight := w1.getLsbD 30,
      agents := bits w3 0 8, prefetchable := w1.getLsbD 31,
      cls := if w2.getLsbD 28 then .relaxed else .strict, domain := bits w2 29 2 }

/-- The bank a READ WINDOW operand names, if any. -/
def bankOfCode (w : Word) : Option BankName := if w = 0 then some .a else if w = 1 then some .b else none

/-! ## Vector entries (12.3) -/

/-- The code of a mode. -/
def modeCode : SteerMode → BitVec 2
  | .fixed => 0#2
  | .rotate => 1#2
  | .leastBusy => 2#2

/-- The mode a code names, if any. -/
def modeOfCode (c : BitVec 2) : Option SteerMode :=
  if c = 0#2 then some .fixed else if c = 1#2 then some .rotate else if c = 2#2 then some .leastBusy else none

/-- The code of an agent in a three-bit field. -/
def agentCode (a : Agent) : BitVec 3 := BitVec.ofNat 3 a.val

/-- The agent a three-bit field holds. -/
def agentOfCode (c : BitVec 3) : Agent := ⟨c.toNat, c.isLt⟩

/-- The two words of a vector entry: its writable fields, then its own state. -/
def vectorWords (e : VectorEntry) : List Word :=
  let own : BitVec 10 :=
    match e.state with
    | .idle => 0#3 ++ 0#1 ++ bit e.again ++ 0#2 ++ agentCode e.cursor
    | .pending => 0#3 ++ 0#1 ++ bit e.again ++ 1#2 ++ agentCode e.cursor
    | .inService a => agentCode a ++ 1#1 ++ bit e.again ++ 2#2 ++ agentCode e.cursor
  [0#16 ++ e.agents ++ 0#2 ++ agentCode e.fixedAgent ++ modeCode e.mode ++ bit e.enabled,
   0#21 ++ own.extractLsb' 3 7 ++ 0#1 ++ own.extractLsb' 0 3]

/-! ## Registers (12.5) -/

/-- The code of a port state (12.5). -/
def portStateCode : PortState → BitVec 2
  | .disabled => 0#2
  | .waiting => 1#2
  | .active => 2#2
  | .failed => 3#2

/-- The code of a port fault cause (12.4). -/
def faultCode : FaultCause → BitVec 4
  | .badReceipt => 1#4
  | .badPiece => 2#4
  | .badCreditReturn => 3#4
  | .unexpectedReady => 4#4
  | .malformedMessage => 5#4
  | .linkFault => 6#4
  | .badReady => 7#4

/-- Word n of the port state summary (R140). -/
def portWord (p : PortRecord) : Word :=
  0#4 ++ (match p.lastFault with | none => 0#4 | some c => faultCode c) ++ BitVec.ofNat 6 p.nonPostedGrant ++
    BitVec.ofNat 6 p.nonPostedCredit ++ BitVec.ofNat 5 p.postedGrant ++ BitVec.ofNat 5 p.postedCredit ++
    portStateCode p.state

/-- The occupancy byte of a queue: entries e and Sent s as e × (e + 1) / 2 + s (12.5). -/
def occupancyByte (q : PostedQueue) : BitVec 8 :=
  BitVec.ofNat 8 (q.entries.length * (q.entries.length + 1) / 2 + q.entries.countP (fun e => e.sent.isSome))

/-- A lock's five bits: the owner, then the state code (12.5). -/
def lockBits : Lock → BitVec 5
  | .opened => 0#5
  | .claimed owner _ _ => agentCode owner ++ 1#2
  | .held owner _ _ => agentCode owner ++ 2#2

/-- The number of FREE slots (R55). -/
def freeCount (s : State) : Nat := allSlots.countP (fun i => (slotUse s i).isNone)

/-- The words of a register as the state stands, for the numbers 0 to 13 (R167, 12.5). -/
def registerWords (number : BitVec 6) (s : State) : Option (List Word) :=
  match number.toNat with
  | 0 => some [Config.revision ++ Config.partCode ++ Config.vendorCode]
  | 1 => some [s.managementMask.setWidth 32]
  | 2 => some [(bit s.missRecords).setWidth 32]
  | 3 => some [s.timeout.setWidth 32]
  | 4 => some [s.holdLimit.setWidth 32]
  | 5 => some [s.agentMasks.setWidth 32]
  | 6 => some [bit s.overflow ++ BitVec.ofNat 31 s.records.length]
  | 7 => some [portWord (peek s.ports 0), portWord (peek s.ports 1), portWord (peek s.ports 2), portWord (peek s.ports 3)]
  | 8 => some [occupancyByte (peek s.pwqs 3) ++ occupancyByte (peek s.pwqs 2) ++ occupancyByte (peek s.pwqs 1) ++
      occupancyByte (peek s.pwqs 0)]
  | 9 => some [BitVec.ofNat 32 (freeCount s)]
  | 10 => some [0#4 ++ s.broken ++ lockBits (peek s.locks 3) ++ lockBits (peek s.locks 2) ++ lockBits (peek s.locks 1) ++
      lockBits (peek s.locks 0)]
  | 11 => some [0#23 ++ (match s.activeBank with | .a => 0#1 | .b => 1#1) ++ s.generation]
  | 12 => some [(bit s.drain.isSome).setWidth 32]
  | 13 => some [s.bridgeTime]
  | _ => none

/-! ## Error records (12.4) -/

/-- An upstream packet kind's code (12.1). -/
def upKindCode : UpKind → BitVec 3
  | .postedWrite => 0#3
  | .read => 1#3
  | .nonPostedWrite => 2#3
  | .exclusiveRead => 3#3
  | .exclusiveWrite => 4#3
  | .exclusiveRelease => 5#3
  | .managementRequest => 6#3
  | .serviceDone => 7#3

/-- The optional fields of a record, as values of their fields' widths (R178, 12.4). -/
structure RecordFields where
  kind : BitVec 5
  agent : Option Agent := none
  tag : Option Tag := none
  port : Option Port := none
  address : Option Addr := none
  window : Option WindowId := none
  slot : Option SlotId := none
  count : Option Nat := none
  vector : Option (BitVec 7) := none
  index : Option (BitVec 6) := none
  operation : Option (BitVec 4) := none
  requestKind : Option UpKind := none
  state : Option (BitVec 3) := none
  status : Option PieceStatus := none
  cause : Option (BitVec 4) := none

/-- Malformed cause codes (12.4). -/
def malformedCode : MalformedCause → BitVec 4
  | .unknownKind => 1#4
  | .fieldRange => 2#4
  | .length => 3#4
  | .blockBoundary => 4#4
  | .dataCount => 5#4

/-- Overrun cause codes (12.4). -/
def overrunCode : CreditClass → BitVec 4
  | .posted => 1#4
  | .nonPosted => 2#4
  | .management => 3#4

/-- PostedDiscarded cause codes (12.4). -/
def discardCode : DiscardCause → BitVec 4
  | .failed => 1#4
  | .disabled => 2#4

/-- CompletionExpired cause codes, the state at expiry (12.4). ORPHANED is no state in which a completion timer runs. -/
def expiryCode : SlotState → BitVec 4
  | .lockWait => 1#4
  | .fenceWait => 2#4
  | .ready => 3#4
  | .fillWait => 4#4
  | .sent => 5#4
  | .assembling => 6#4
  | .orphaned => 0#4

/-- StaleCompletion cause codes (12.4). -/
def staleCode : StaleCause → BitVec 4
  | .slotFree => 1#4
  | .takesNoPieces => 2#4
  | .epochDiffers => 3#4
  | .otherPort => 4#4

/-- ExclusiveBroken cause codes (12.4). -/
def breakCode : BreakCause → BitVec 4
  | .holdExpiry => 1#4
  | .portFailed => 2#4
  | .portDisabled => 3#4
  | .upstreamReset => 4#4

/-- ExclusiveMisuse cause codes (12.4). -/
def misuseCode : MisuseCause → BitVec 4
  | .sequenceInProgress => 1#4
  | .noLock => 2#4
  | .otherPort => 3#4
  | .notHeld => 4#4
  | .sink => 5#4

/-- ServiceMismatch cause codes (12.4). -/
def mismatchCode : MismatchCause → BitVec 4
  | .idle => 1#4
  | .pending => 2#4
  | .otherAgent => 3#4

/-- The lock state code of a record (12.4). -/
def brokenStateCode : BrokenState → BitVec 3
  | .claimed => 1#3
  | .held => 2#3

/-- The fields each kind of record carries (R178), its kind numbered as 12.4 gives. -/
def recordFields : RecordBody → RecordFields
  | .malformed c a t addr => { kind := 1, agent := a, tag := t, address := addr, cause := some (malformedCode c) }
  | .duplicateTag a t k => { kind := 2, agent := some a, tag := some t, requestKind := some k }
  | .overrun a c => { kind := 3, agent := some a, cause := some (overrunCode c) }
  | .unmapped a addr t => { kind := 4, agent := some a, tag := t, address := some addr }
  | .refused a addr w t => { kind := 5, agent := some a, tag := t, address := some addr, window := some w }
  | .postedDropped a addr p => { kind := 6, agent := some a, port := some p, address := some addr }
  | .postedDiscarded p n c => { kind := 7, port := some p, count := some n, cause := some (discardCode c) }
  | .completionExpired a t p i st =>
    { kind := 8, agent := some a, tag := some t, port := some p, slot := some i, cause := some (expiryCode st) }
  | .lateCompletion p i st => { kind := 9, port := some p, slot := some i, status := some st }
  | .orphanExpired p i => { kind := 10, port := some p, slot := some i }
  | .staleCompletion p i st c =>
    { kind := 11, port := some p, slot := some i, status := some st, cause := some (staleCode c) }
  | .portFault p st c i =>
    { kind := 12, port := some p, slot := i, state := some ((portStateCode st).setWidth 3), cause := some (faultCode c) }
  | .exclusiveBroken p a st c =>
    { kind := 13, agent := some a, port := some p, state := some (brokenStateCode st), cause := some (breakCode c) }
  | .exclusiveMisuse a t k c w =>
    { kind := 14, agent := some a, tag := some t, window := w, requestKind := some k, cause := some (misuseCode c) }
  | .badInterrupt p v => { kind := 15, port := some p, vector := some v }
  | .serviceMismatch a v c =>
    { kind := 16, agent := some a, vector := some (BitVec.ofNat 7 v.val), cause := some (mismatchCode c) }
  | .managementRefused a t op ix =>
    { kind := 17, agent := some a, tag := some t, index := some ix, operation := some op }
  | .upstreamReset n => { kind := 18, count := some n }

/-- The presence marks of a record, agent in bit 0 up to cause in bit 13 (12.4). -/
def presenceMarks (f : RecordFields) : BitVec 14 :=
  bit f.cause.isSome ++ bit f.status.isSome ++ bit f.state.isSome ++ bit f.requestKind.isSome ++ bit f.operation.isSome ++
    bit f.index.isSome ++ bit f.vector.isSome ++ bit f.count.isSome ++ bit f.slot.isSome ++ bit f.window.isSome ++
    bit f.address.isSome ++ bit f.port.isSome ++ bit f.tag.isSome ++ bit f.agent.isSome

/-- The number of an index in a field of a record word, 0 where the field is absent (R187). -/
def indexBits {n : Nat} (w : Nat) (i : Option (Fin n)) : BitVec w :=
  match i with
  | some k => BitVec.ofNat w k.val
  | none => 0

/-- The four words of a record (12.4). -/
def recordWords (r : ErrorRecord) : List Word :=
  let f := recordFields r.body
  [(match f.requestKind with | some k => upKindCode k | none => 0#3) ++ indexBits 2 f.port ++ indexBits 5 f.tag ++
     indexBits 3 f.agent ++ presenceMarks f ++ f.kind,
   r.time,
   0#8 ++ (match f.address with | some a => a.extractLsb' 32 8 | none => 0#8) ++
     (match f.status with | some .good => 0#4 | some .fault => 1#4 | none => 0#4) ++ f.state.getD 0 ++
     indexBits 5 f.window ++ f.cause.getD 0,
   match f.address with
   | some a => a.extractLsb' 0 32
   | none =>
     f.operation.getD 0 ++ f.index.getD 0 ++ f.vector.getD 0 ++ BitVec.ofNat 9 (f.count.getD 0) ++ indexBits 6 f.slot]

/-- The empty indication of TAKE ERROR RECORD: a kind code of 0, and three words of 0 (12.4). -/
def emptyIndication : List Word := [0, 0, 0, 0]

/-! ## Packets the part sends (12.1, 12.2) -/

/-- A status code (12.1). -/
def statusCode : Status → BitVec 4
  | .done => 0#4
  | .refused => 1#4
  | .unmapped => 2#4
  | .expired => 3#4
  | .portLost => 4#4
  | .targetFault => 5#4
  | .broken => 6#4
  | .misuse => 7#4
  | .busy => 8#4
  | .invalid => 9#4

/-- A credit return's class code (12.1). -/
def classCode : CreditClass → BitVec 2
  | .posted => 0#2
  | .nonPosted => 1#2
  | .management => 2#2

/-- The header words and the data bytes of an upstream packet the part sends (12.1). -/
def egressWords : EgressPacket → List Word × List Byte
  | .completion c =>
    ((0#2 ++ BitVec.ofNat 3 c.words.length ++ BitVec.ofNat 9 c.data.length ++ statusCode c.status ++
        BitVec.ofNat 6 c.tag.val ++ BitVec.ofNat 4 c.agent.val ++ 8#4) :: c.words, c.data)
  | .interrupt a v => ([0#11 ++ BitVec.ofNat 7 v.val ++ 0#6 ++ BitVec.ofNat 4 a.val ++ 9#4], [])
  | .creditReturn cls => ([0#10 ++ 1#6 ++ classCode cls ++ 0#10 ++ 10#4], [])

/-- The two address words of a packet (12.1). -/
def addressWords (a : Addr) : List Word := [a.extractLsb' 0 32, 0#24 ++ a.extractLsb' 32 8]

/-- The header words and the data bytes of a downstream packet the part sends (12.2). -/
def downstreamWords : DownstreamPacket → List Word × List Byte
  | .postedWrite seq a n data => ((0#3 ++ BitVec.ofNat 9 n ++ seq ++ 0#4) :: addressWords a, data)
  | .read tag a n => ((0#11 ++ BitVec.ofNat 9 n ++ tag ++ 1#4) :: addressWords a, [])
  | .nonPostedWrite tag a n data => ((0#11 ++ BitVec.ofNat 9 n ++ tag ++ 2#4) :: addressWords a, data)

/-- A word's bytes as the links carry them, least significant first (12_formats.md). -/
def wordBytes (w : Word) : List Byte := [bits w 0 8, bits w 8 8, bits w 16 8, bits w 24 8]

/-- The bytes of a packet as a link carries them: its words, then its data (12_formats.md). -/
def wireBytes (p : List Word × List Byte) : List Byte := p.1.flatMap wordBytes ++ p.2

end Sys2Proof.Machine
end

