-- ==== Sys2Proof/Machine/Flags.lean ====
section
/-! DEFINITION. The conditions the blocks test: port service, locks and coverage, fences, buffer keys, what a window covers
and allows, and what the lanes offer. -/

namespace Sys2Proof.Machine

/-! ## Ports and locks -/

/-- A port in Waiting or Active (R109, R112). -/
def portInService (p : Port) (s : State) : Bool :=
  match (peek s.ports p).state with
  | .disabled => false
  | .waiting => true
  | .active => true
  | .failed => false

/-- A port in Active. -/
def isActive (p : Port) (s : State) : Bool := decide ((peek s.ports p).state = .active)

/-- The owner of a lock, absent while it is Open (R109). -/
def lockOwner : Lock → Option Agent
  | .opened => none
  | .claimed owner _ _ => some owner
  | .held owner _ _ => some owner

/-- The claiming arrival number of a lock, absent while it is Open (R109). -/
def lockArrival : Lock → Option Arrival
  | .opened => none
  | .claimed _ arrival _ => some arrival
  | .held _ arrival _ => some arrival

/-- Whether a lock is Claimed or Held by an agent. -/
def ownsPort (a : Agent) (p : Port) (s : State) : Bool := decide (lockOwner (peek s.locks p) = some a)

/-- Whether an agent owns a Claimed or Held lock (R31). -/
def ownsLock (a : Agent) (s : State) : Bool := allPorts.any (fun p => ownsPort a p s)

/-- Whether a port's lock is Held by an agent. -/
def holdsPort (a : Agent) (p : Port) (s : State) : Bool :=
  match peek s.locks p with
  | .held owner _ _ => decide (owner = a)
  | .claimed _ _ _ => false
  | .opened => false

/-- The number of ports whose locks are Claimed or Held (R31). -/
def lockedPorts (s : State) : Nat := allPorts.countP (fun p => (lockOwner (peek s.locks p)).isSome)

/-- R31: whether a tracker slot may be given to an agent. -/
def slotAvailable (a : Agent) (s : State) : Bool :=
  if ownsLock a s then 0 < freeCount s else lockedPorts s < freeCount s

/-- R110: an exclusive read of the agent is in LOCK_WAIT. -/
def exclusiveReadWaiting (a : Agent) (s : State) : Bool :=
  allSlots.any (fun i =>
    match slotUse s i with
    | some u => decide (u.state = .lockWait) && decide (u.kind = .exclusiveRead) && decide (u.agent = a)
    | none => false)

/-- R110: an agent has a sequence in progress. -/
def sequenceInProgress (a : Agent) (s : State) : Bool := ownsLock a s || exclusiveReadWaiting a s

/-- R58 case 1, R116: a lock that another agent owns makes this slot wait. -/
def waitsForLock (u : SlotUse) (s : State) : Bool :=
  match lockOwner (peek s.locks u.port), lockArrival (peek s.locks u.port) with
  | some owner, some claim =>
    decide (owner ≠ u.agent) && (earlier claim u.arrival || decide (u.kind = .exclusiveRead))
  | _, _ => false

/-! ## Fences (R78 to R80) -/

/-- R78: whether a request is fenced. -/
def isFenced (u : SlotUse) : Bool :=
  match u.kind with
  | .read => decide (u.cls = .strict)
  | .nonPostedWrite => decide (u.cls = .strict)
  | .exclusiveRead => true
  | .exclusiveWrite => true

/-- R80: no posted write of the posted intake, and no entry of the slot's domain in any posted write queue, is earlier than the
slot's request. -/
def fenceClear (u : SlotUse) (s : State) : Bool :=
  s.postedIntake.all (fun e => !earlier e.arrival u.arrival) &&
    allPorts.all (fun p => (peek s.pwqs p).entries.all (fun e =>
      !(decide (e.domain = u.domain) && earlier e.arrival u.arrival)))

/-- R58 case 3: a fenced slot with an earlier posted write to wait for. -/
def mustWaitAtFence (u : SlotUse) (s : State) : Bool := isFenced u && !fenceClear u s

/-! ## Buffers (R93, R95) -/

/-- An address rounded down to a multiple of 256. -/
def blockOf (a : Addr) : Addr := a.extractLsb' 8 32 ++ 0#8

/-- The offset of an address in its block. -/
def offsetIn (a : Addr) : Nat := a.toNat % 256

/-- The key of a request: its port, and its downstream address rounded down to a multiple of 256 (R93). -/
def keyOf (p : Port) (a : Addr) : BufferKey := { port := p, block := blockOf a }

/-- The bytes of a block that a request asks for (R96). -/
def sliceOf (block : List Byte) (a : Addr) (length : Nat) : List Byte := (block.drop (offsetIn a)).take length

/-- The block of a VALID buffer with this key. -/
def validBlock (key : BufferKey) : Buffer → Option (List Byte)
  | .valid k block => if k = key then some block else none
  | .free => none
  | .filling _ _ _ => none
  | .stale _ _ _ => none

/-- The VALID buffer of a key, with its block (R93). -/
def findValid (key : BufferKey) (s : State) : Option (BufferId × List Byte) :=
  allBuffers.findSome? (fun b => (validBlock key (peek s.buffers b)).map (fun block => (b, block)))

/-- Whether a buffer is FILLING with this key. -/
def isFilling (key : BufferKey) : Buffer → Bool
  | .filling k _ _ => decide (k = key)
  | .free => false
  | .stale _ _ _ => false
  | .valid _ _ => false

/-- The FILLING buffer of a key (R99). -/
def findFilling (key : BufferKey) (s : State) : Option BufferId :=
  allBuffers.find? (fun b => isFilling key (peek s.buffers b))

/-- Whether a buffer is VALID. -/
def isValid : Buffer → Bool
  | .valid _ _ => true
  | .free => false
  | .filling _ _ _ => false
  | .stale _ _ _ => false

/-- R95: the port's posted write queue holds an entry in the block. -/
def blockQueued (key : BufferKey) (s : State) : Bool :=
  (peek s.pwqs key.port).entries.any (fun e => decide (blockOf e.address = key.block))

/-- R95: the buffer that a read can obtain: the lowest FREE one, else the oldest of the LRU list. -/
def obtainable (s : State) : Option BufferId :=
  match allBuffers.find? (fun b => decide (peek s.buffers b = .free)) with
  | some b => some b
  | none => s.lru.head?

/-! ## Windows (R3, R4, R6) -/

/-- The page of an address. -/
def pageOf (a : Addr) : Page := a.extractLsb' 12 28

/-- R3: a valid entry whose range contains the address. -/
def covers (w : WindowEntry) (a : Addr) : Bool := w.valid && decide (w.base ≤ pageOf a) && decide (pageOf a ≤ w.limit)

/-- What a decode judges: a posted write, or a kind of non-posted access. -/
inductive AccessKind where
  | posted
  | nonPosted (k : SlotKind)
  deriving DecidableEq, Repr

/-- R4: the rights a request's kind needs. -/
def hasRights (w : WindowEntry) : AccessKind → Bool
  | .posted => w.writeRight
  | .nonPosted .read => w.readRight
  | .nonPosted .nonPostedWrite => w.writeRight
  | .nonPosted .exclusiveRead => w.exclusiveRight
  | .nonPosted .exclusiveWrite => w.exclusiveRight && w.writeRight

/-- An exclusive read or an exclusive write. -/
def isExclusive : AccessKind → Bool
  | .posted => false
  | .nonPosted .read => false
  | .nonPosted .nonPostedWrite => false
  | .nonPosted .exclusiveRead => true
  | .nonPosted .exclusiveWrite => true

/-- A write of any kind (R9). -/
def isWrite : SlotKind → Bool
  | .read => false
  | .nonPostedWrite => true
  | .exclusiveRead => false
  | .exclusiveWrite => true

/-- The first byte of a page. -/
def pageAddress (p : Page) : Addr := p ++ 0#12

/-- R6: the downstream address of a request. -/
def downstreamAddress (w : WindowEntry) (a : Addr) : Addr := a - pageAddress w.base + pageAddress w.downBase

/-! ## Lanes (R44, R46, R63, R132) -/

/-- R46: the port's lock holds a queue entry that arrived after its claim. -/
def heldByLock (p : Port) (arrival : Arrival) (s : State) : Bool :=
  match lockArrival (peek s.locks p) with
  | some claim => earlier claim arrival
  | none => false

/-- The oldest Queued entry of a port's posted write queue. -/
def oldestQueued (p : Port) (s : State) : Option QueueEntry := (peek s.pwqs p).entries.find? (fun e => e.sent.isNone)

/-- R44: the posted write queue offers its oldest Queued entry to the posted lane. -/
def postedOffers (p : Port) (s : State) : Bool :=
  match oldestQueued p s with
  | some e => isActive p s && decide (0 < (peek s.ports p).postedCredit) && !heldByLock p e.arrival s
  | none => false

/-- R63: the non-posted lane offers the oldest slot of the dispatch list. -/
def nonPostedOffers (p : Port) (s : State) : Bool :=
  isActive p s && decide (0 < (peek s.ports p).nonPostedCredit) && !(peek s.dispatch p).isEmpty

/-- R132: the arbiter's grant: the lane that offers, or, when both do, the lane that is not the last-winner. -/
def grantedLane (p : Port) (s : State) : Option Lane :=
  if postedOffers p s then
    if nonPostedOffers p s && decide ((peek s.ports p).lastWinner = .posted) then some .nonPosted else some .posted
  else if nonPostedOffers p s then some .nonPosted else none

end Sys2Proof.Machine
end

