-- ==== Sys2Proof/Machine/Steering.lean ====
section
/-! DEFINITION. The interrupt steering unit's shared operations: choosing an agent, steering, raising, re-steering (R142 to
R158), and the raise of vector 0 at the end of an event (R148, R151). -/

namespace Sys2Proof.Machine

/-- R144: whether an agent is eligible for an entry under the masks. -/
def eligibleAgent (e : VectorEntry) (masks : AgentSet) (a : Agent) : Bool :=
  match e.mode with
  | .fixed => decide (a = e.fixedAgent) && !hasAgent masks a
  | .rotate => hasAgent e.agents a && !hasAgent masks a
  | .leastBusy => hasAgent e.agents a && !hasAgent masks a

/-- The agents in the order Rotate tries them: upward from the one after the cursor, ending with the cursor (R145). -/
def rotationFrom (cursor : Agent) : List Agent := allAgents.map (fun k => cursor + 1 + k)

/-- R145: of two candidates the one with the lower count, and the earlier one where they are equal. -/
def lessBusy (busy : Vector Nat 8) (best : Option Agent) (a : Agent) : Option Agent :=
  match best with
  | none => some a
  | some b => if peek busy a < peek busy b then some a else some b

/-- R145: the agent chosen for an entry, if any is eligible. -/
def chooseAgent (e : VectorEntry) (masks : AgentSet) (busy : Vector Nat 8) : Option Agent :=
  match e.mode with
  | .fixed => allAgents.find? (eligibleAgent e masks)
  | .rotate => (rotationFrom e.cursor).find? (eligibleAgent e masks)
  | .leastBusy => (allAgents.filter (eligibleAgent e masks)).foldl (lessBusy busy) none

/-- R146: an entry is delivered to an agent: an interrupt is appended, the agent's count rises, the cursor moves to it. -/
def deliver (v : VectorId) (a : Agent) (s : State) : State :=
  let s1 := appendEgress (.interrupt a v) s
  { s1 with
    vectors := poke s1.vectors v { peek s1.vectors v with state := .inService a, again := false, cursor := a }
    serviceCounts := poke s1.serviceCounts a (peek s1.serviceCounts a + 1) }

/-- R146: a Pending, enabled entry with an eligible agent is delivered; any other is left as it is. -/
def steer (v : VectorId) (s : State) : State :=
  let e := peek s.vectors v
  if e.state = .pending ∧ e.enabled = true then
    match chooseAgent e s.agentMasks s.serviceCounts with
    | some a => deliver v a s
    | none => s
  else s

/-- A vector entry's own state changed. -/
def setVectorState (v : VectorId) (st : VectorState) (s : State) : State :=
  { s with vectors := poke s.vectors v { peek s.vectors v with state := st } }

/-- R147: a raise of a vector. -/
def raiseVector (v : VectorId) (s : State) : State :=
  match (peek s.vectors v).state with
  | .idle => steer v (setVectorState v .pending s)
  | .pending => s
  | .inService _ => { s with vectors := poke s.vectors v { peek s.vectors v with again := true } }

/-- R157: every Pending entry is steered, from vector 0 to vector 63. -/
def resteer (s : State) : State := allVectors.foldl (fun s v => steer v s) s

/-- R148, R151: at the end of an event that stored the first record into an empty queue, vector 0 is raised, after every other
packet of the event. -/
def raiseOnFirstRecord (before after : State) : State :=
  if before.records.isEmpty && !after.records.isEmpty then raiseVector 0 after else after

/-- An event of the part: what it does, and then the raise of vector 0 that its records call for. -/
def event (act : State → State) (s : State) : Host.Outcome State Fault Refusal := .next (raiseOnFirstRecord s (act s))

/-- R149, R152: a fitting Service Done ends the service of a vector by an agent. Vector 0 goes on only while the error record
queue holds a record, any other vector if it was raised again. -/
def endService (v : VectorId) (a : Agent) (s : State) : State :=
  let e := peek s.vectors v
  let more : Bool := if v = 0 then !s.records.isEmpty else e.again
  let s1 : State :=
    { s with
      serviceCounts := poke s.serviceCounts a (peek s.serviceCounts a - 1)
      vectors := poke s.vectors v { e with again := false, state := if more then .pending else .idle } }
  steer v s1

/-- R149, R150: a Service Done from an agent fits and ends the service, or makes a ServiceMismatch record. -/
def takeServiceDone (a : Agent) (v : VectorId) (s : State) : State :=
  match (peek s.vectors v).state with
  | .idle => storeRecord (.serviceMismatch a v .idle) s
  | .pending => storeRecord (.serviceMismatch a v .pending) s
  | .inService serving =>
    if serving = a then endService v a s else storeRecord (.serviceMismatch a v .otherAgent) s

end Sys2Proof.Machine
end

