-- ==== Sys2Proof/Machine/Window.lean ====
section
/-! DEFINITION. The window unit: lookup, the checks of a decode in their order, the decode record (R2 to R9), and the
exclusive sequence unit's checks at decode (R111, R114). -/

namespace Sys2Proof.Machine

/-- What a decode hands the receiving block (R9). -/
structure DecodeRecord where
  window : WindowId
  port : Port
  address : Addr
  length : Nat
  cls : OrderClass
  domain : Domain
  prefetchable : Bool
  generation : Generation
  deriving DecidableEq, Repr

/-- The outcome of a decode: one constructor for each row of R8, row 5 giving two. -/
inductive Decoded where
  | unmapped
  | refused (w : WindowId)
  | sink
  | portLost (p : Port)
  | misuse (w : WindowId) (cause : MisuseCause)
  | broken
  | hit (b : BufferId) (data : List Byte)
  | work (r : DecodeRecord)
  deriving DecidableEq, Repr

/-- R3: the valid entry with the lowest index whose range contains the address. -/
def lookup (a : Addr) (s : State) : Option WindowId := allWindows.find? (fun i => covers (peek (activeEntries s) i) a)

/-- The decode record of a request in its window (R9). -/
def decodeRecord (i : WindowId) (p : Port) (a : Addr) (length : Nat) (s : State) : DecodeRecord :=
  let w := peek (activeEntries s) i
  { window := i, port := p, address := downstreamAddress w a, length, cls := w.cls, domain := w.domain,
    prefetchable := w.prefetchable, generation := s.generation }

/-- R111: the checks of an exclusive read at row 5. -/
def checkExclusiveRead (agent : Agent) (r : DecodeRecord) (s : State) : Decoded :=
  if hasAgent s.broken agent then .broken
  else if sequenceInProgress agent s then .misuse r.window .sequenceInProgress
  else .work r

/-- R114: the checks of an exclusive write at row 5. -/
def checkExclusiveWrite (agent : Agent) (r : DecodeRecord) (s : State) : Decoded :=
  if hasAgent s.broken agent then .broken
  else if holdsPort agent r.port s then .work r
  else if ownsPort agent r.port s then .misuse r.window .notHeld
  else if ownsLock agent s then .misuse r.window .otherPort
  else .misuse r.window .noLock

/-- R8 row 6, R96: a Relaxed read in a prefetchable window that a VALID buffer answers. -/
def checkBuffer (r : DecodeRecord) (s : State) : Decoded :=
  if r.cls = .relaxed ∧ r.prefetchable = true then
    match findValid (keyOf r.port r.address) s with
    | some (b, block) => .hit b (sliceOf block r.address r.length)
    | none => .work r
  else .work r

/-- Rows 5 to 7 of R8, for a request whose window leads to a port in service. -/
def decodeAtPort (kind : AccessKind) (agent : Agent) (r : DecodeRecord) (s : State) : Decoded :=
  match kind with
  | .posted => .work r
  | .nonPosted .read => checkBuffer r s
  | .nonPosted .nonPostedWrite => .work r
  | .nonPosted .exclusiveRead => checkExclusiveRead agent r s
  | .nonPosted .exclusiveWrite => checkExclusiveWrite agent r s

/-- R8: the first row whose condition holds gives the outcome. -/
def decode (kind : AccessKind) (agent : Agent) (a : Addr) (length : Nat) (s : State) : Decoded :=
  match lookup a s with
  | none => .unmapped
  | some i =>
    let w := peek (activeEntries s) i
    if !(hasAgent w.agents agent && hasRights w kind) then .refused i
    else
      match w.target with
      | .sink => if isExclusive kind then .misuse i .sink else .sink
      | .port p =>
        if portInService p s then decodeAtPort kind agent (decodeRecord i p a length s) s else .portLost p

/-! ## Withdrawal (R104, R105) -/

/-- A buffer withdrawn: VALID becomes FREE, FILLING becomes STALE, the others stay. -/
def withdrawn : Buffer → Buffer
  | .valid _ _ => .free
  | .filling k l fs => .stale k l fs
  | .stale k l fs => .stale k l fs
  | .free => .free

/-- The key of a buffer, absent while it is FREE. -/
def bufferKey : Buffer → Option BufferKey
  | .free => none
  | .filling k _ _ => some k
  | .stale k _ _ => some k
  | .valid k _ => some k

/-- The LRU list with only the buffers that are VALID in a table (R94). -/
def keepValid (buffers : Vector Buffer 8) (lru : List BufferId) : List BufferId :=
  lru.filter (fun b => isValid (peek buffers b))

/-- R104: a decoded write withdraws every buffer of its block on its port. -/
def withdrawBlock (key : BufferKey) (s : State) : State :=
  let buffers := s.buffers.map (fun b => if bufferKey b = some key then withdrawn b else b)
  { s with buffers, lru := keepValid buffers s.lru }

/-- R105: a commit withdraws every buffer. -/
def withdrawAll (s : State) : State := { s with buffers := s.buffers.map withdrawn, lru := [] }

/-- R106: a port exit makes every VALID buffer of the port FREE. -/
def freeValidBuffers (p : Port) (s : State) : State :=
  let buffers := s.buffers.map (fun b =>
    match b with
    | .valid k block => if k.port = p then .free else .valid k block
    | .free => .free
    | .filling k l fs => .filling k l fs
    | .stale k l fs => .stale k l fs)
  { s with buffers, lru := keepValid buffers s.lru }

end Sys2Proof.Machine
end

