-- ==== Sys2Proof/Machine/Tracker.lean ====
section
/-! DEFINITION. The request tracker and the prefetch buffers: the ready point (R60, R61), fills and how they end (R98 to
R102), the answers of slots (R69), the fence at a slot (R58, R84) and the fence-waiting order (R82, R83). -/

namespace Sys2Proof.Machine

/-! ## Buffers -/

/-- R94: a buffer a read was answered from moves to the newest end of the LRU list. -/
def touchBuffer (b : BufferId) (s : State) : State := { s with lru := without b s.lru ++ [b] }

/-- A buffer replaced. -/
def putBuffer (b : BufferId) (x : Buffer) (s : State) : State := { s with buffers := poke s.buffers b x }

/-- The followers of a buffer, in attach order (R92). -/
def followersOf : Buffer → List SlotId
  | .free => []
  | .filling _ _ fs => fs
  | .stale _ _ fs => fs
  | .valid _ _ => []

/-- R100: each follower is answered Done with its own bytes of the block, in attach order. -/
def answerFollowersDone (block : List Byte) (followers : List SlotId) (s : State) : State :=
  followers.foldl (fun s i =>
    match slotUse s i with
    | some u => answerSlot i .done (sliceOf block u.address u.length) s
    | none => s) s

/-- R101, R102, R106: each follower shares the leader's status, with FFh data, in attach order. -/
def answerFollowersFailed (st : Status) (followers : List SlotId) (s : State) : State :=
  followers.foldl (fun s i =>
    match slotUse s i with
    | some u => answerSlot i st (failData u.kind u.length) s
    | none => s) s

/-- R100: a fill ends well: the followers are answered, and a FILLING buffer becomes VALID with the block, a STALE one FREE. -/
def endFillDone (b : BufferId) (block : List Byte) (s : State) : State :=
  match peek s.buffers b with
  | .filling k _ fs =>
    let s1 := putBuffer b (.valid k block) (answerFollowersDone block fs s)
    { s1 with lru := without b s1.lru ++ [b] }
  | .stale _ _ fs => putBuffer b .free (answerFollowersDone block fs s)
  | .free => s
  | .valid _ _ => s

/-- R101, R102, R106: a fill ends badly: the followers share the status and the buffer becomes FREE. -/
def endFillFailed (b : BufferId) (st : Status) (s : State) : State :=
  match peek s.buffers b with
  | .filling _ _ fs => answerFollowersFailed st fs (putBuffer b .free s)
  | .stale _ _ fs => answerFollowersFailed st fs (putBuffer b .free s)
  | .free => s
  | .valid _ _ => s

/-- The fill a slot leads ends with a status other than Done; a slot that leads none changes nothing. -/
def endLedFill (u : SlotUse) (st : Status) (s : State) : State :=
  match u.fillLink with
  | some (.leader b) => endFillFailed b st s
  | some (.follower _) => s
  | none => s

/-- R69, R71, R74: a slot is answered with a status other than Done and becomes FREE; the fill it leads ends with it. -/
def failSlot (i : SlotId) (st : Status) (s : State) : State :=
  match slotUse s i with
  | none => s
  | some u => endLedFill u st (answerSlot i st (failData u.kind u.length) s)

/-! ## The ready point -/

/-- R62: a slot becomes READY and takes its arrival-number position in its port's dispatch list. -/
def enterReady (i : SlotId) (s : State) : State :=
  match slotUse s i with
  | none => s
  | some u =>
    let s1 := putUse i (some { u with state := .ready }) s
    { s1 with dispatch := poke s1.dispatch u.port (insertByArrival (arrivalOf s1) i (peek s1.dispatch u.port)) }

/-- R99: a slot follows a FILLING buffer. -/
def followFill (b : BufferId) (i : SlotId) (u : SlotUse) (s : State) : State :=
  let s1 := putUse i (some { u with state := .fillWait, fillLink := some (.follower b) }) s
  match peek s1.buffers b with
  | .filling k l fs => putBuffer b (.filling k l (fs ++ [i])) s1
  | .free => s1
  | .stale _ _ _ => s1
  | .valid _ _ => s1

/-- R61, R95, R98: a slot obtains a buffer and leads a fill of the whole block. -/
def leadFill (b : BufferId) (i : SlotId) (u : SlotUse) (s : State) : State :=
  let s1 := putUse i (some { u with fillLink := some (.leader b), received := List.replicate 256 none }) s
  let s2 := putBuffer b (.filling (keyOf u.port u.address) i []) s1
  enterReady i { s2 with lru := without b s2.lru }

/-- Cases 2 to 5 of R60 for a prefetchable read. -/
def readFromBuffers (i : SlotId) (u : SlotUse) (s : State) : State :=
  match findValid (keyOf u.port u.address) s with
  | some (b, block) => answerSlot i .done (sliceOf block u.address u.length) (touchBuffer b s)
  | none =>
    match findFilling (keyOf u.port u.address) s with
    | some b => followFill b i u s
    | none =>
      if blockQueued (keyOf u.port u.address) s then enterReady i s
      else
        match obtainable s with
        | some b => leadFill b i u s
        | none => enterReady i s

/-- A slot that leads a fill (R61). -/
def leadsFill (u : SlotUse) : Bool :=
  match u.fillLink with
  | some (.leader _) => true
  | some (.follower _) => false
  | none => false

/-- Case 1 of R60: a port out of service, or a slot that waited through an exit of its port (R74, R88, R127; log 12). -/
def lostAtReadyPoint (u : SlotUse) (s : State) : Bool := !portInService u.port s || u.exited

/-- R60: a slot at the ready point. A slot that waited through an exit of its port is answered PortLost here, whatever the
port's state since (R60, R74, R88, R127; DEDUCED, log 12). -/
def readyPoint (i : SlotId) (s : State) : State :=
  match slotUse s i with
  | none => s
  | some u =>
    if lostAtReadyPoint u s then failSlot i .portLost s
    else if leadsFill u then enterReady i s
    else if u.kind = .read ∧ u.prefetchable = true then readFromBuffers i u s
    else enterReady i s

/-! ## Fences -/

/-- R58 case 3, R82: a slot enters FENCE_WAIT and takes its arrival-number position in the fence-waiting order. -/
def enterFenceWait (i : SlotId) (u : SlotUse) (s : State) : State :=
  let s1 := putUse i (some { u with state := .fenceWait }) s
  { s1 with fenceOrder := insertByArrival (arrivalOf s1) i s1.fenceOrder }

/-- Cases 3 and 4 of R58: a slot meets its fence, and goes to the ready point if it has nothing to wait for. What a lock does with
an answer made there is in Exclusive.lean. -/
def meetFence (i : SlotId) (s : State) : State :=
  match slotUse s i with
  | none => s
  | some u => if mustWaitAtFence u s then enterFenceWait i u s else readyPoint i s

/-- R83: a slot of the fence-waiting order whose conditions hold. -/
def fenceReleases (s : State) (i : SlotId) : Bool :=
  match slotUse s i with
  | some u => fenceClear u s
  | none => false

end Sys2Proof.Machine
end

