-- ==== Sys2Proof/Machine/Exclusive.lean ====
section
/-! DEFINITION. The exclusive sequence unit: claims (R112), the opening of a lock and the release of its waiting order (R118),
breaks (R120), what a lock does with the answer of its claiming read (R113), and with it the test of the fences (R83). -/

namespace Sys2Proof.Machine

/-- A lock replaced. -/
def putLock (p : Port) (l : Lock) (s : State) : State := { s with locks := poke s.locks p l }

/-- A slot in FENCE_WAIT or READY, which a claim may move (R59). -/
def movable (u : SlotUse) : Bool := decide (u.state = .fenceWait) || decide (u.state = .ready)

/-- R112: a slot of the port that a claim moves to LOCK_WAIT: another agent's, later than the claim, in FENCE_WAIT or READY. -/
def movedByClaim (p : Port) (owner : Agent) (claim : Arrival) (s : State) (i : SlotId) : Bool :=
  match slotUse s i with
  | some u => decide (u.port = p) && decide (u.agent ≠ owner) && earlier claim u.arrival && movable u
  | none => false

/-- R58, R110: a slot enters LOCK_WAIT and takes its arrival-number position in its port's waiting order. -/
def enterLockWait (i : SlotId) (s : State) : State :=
  match slotUse s i with
  | none => s
  | some u =>
    let s1 := putUse i (some { u with state := .lockWait }) s
    { s1 with waiting := poke s1.waiting u.port (insertByArrival (arrivalOf s1) i (peek s1.waiting u.port)) }

/-- R59: a slot leaves the list that holds it and enters LOCK_WAIT, its fill link kept. -/
def moveToLockWait (i : SlotId) (s : State) : State :=
  match slotUse s i with
  | none => s
  | some u => enterLockWait i (leaveLists i u s)

/-- R112: a port's lock becomes Claimed by a slot's agent, and the slots it covers move to LOCK_WAIT. -/
def claimLock (p : Port) (i : SlotId) (u : SlotUse) (s : State) : State :=
  let s1 := putLock p (.claimed u.agent u.arrival i) s
  (allSlots.filter (movedByClaim p u.agent u.arrival s1)).foldl (fun s j => moveToLockWait j s) s1

/-- A slot's agent is the given one. -/
def belongsTo (owner : Agent) (s : State) (i : SlotId) : Bool :=
  match slotUse s i with
  | some u => decide (u.agent = owner)
  | none => false

/-- R59: a slot leaves the waiting order of its port and meets its fence. -/
def releaseFromWaiting (p : Port) (i : SlotId) (s : State) : State :=
  meetFence i { s with waiting := poke s.waiting p (without i (peek s.waiting p)) }

/-- R112, R118: an exclusive read leaves the waiting order of its port, claims the lock and meets its fence. -/
def claimFromWaiting (p : Port) (i : SlotId) (u : SlotUse) (s : State) : State :=
  meetFence i (claimLock p i u { s with waiting := poke s.waiting p (without i (peek s.waiting p)) })

/-- R118: the slots of a waiting order, from the oldest, are released one by one, up to the first exclusive read if the port is
in service; that read claims the lock, and the slots after it that belong to its agent are released. A claiming read that is
answered at once, PortLost at the ready point (R60, R127; log 12), leaves the lock to `reopen` (R113). -/
def processOrder (reopen : State → State) (p : Port) : List SlotId → State → State
  | [], s => s
  | i :: rest, s =>
    match slotUse s i with
    | none => processOrder reopen p rest s
    | some u =>
      if u.kind = .exclusiveRead ∧ portInService p s = true then
        let s1 := claimFromWaiting p i u s
        if (slotUse s1 i).isNone then reopen s1
        else (rest.filter (belongsTo u.agent s1)).foldl (fun s j => releaseFromWaiting p j s) s1
      else processOrder reopen p rest (releaseFromWaiting p i s)

/-- R118: a lock becomes Open and its port's waiting order is processed; a claiming read that is answered there opens the lock
again, at most the number given of times. -/
def openLockWithin : Nat → Port → State → State
  | 0, p, s => putLock p .opened s
  | n + 1, p, s =>
    let s1 := putLock p .opened s
    processOrder (openLockWithin n p) p (peek s1.waiting p) s1

/-- R118: a lock becomes Open and its port's waiting order is processed. A claiming read that is answered in the processing frees
its slot, so the lock opens again no more often than there are slots (`openLock_eq` in Laws/LockOpening.lean). -/
def openLock (p : Port) (s : State) : State := openLockWithin 64 p s

/-- R113: the lock acts on the answer of its claiming read: Held at Done, with the hold timer started, else Open. -/
def lockActs (i : SlotId) (p : Port) (st : Status) (s : State) : State :=
  match peek s.locks p with
  | .claimed owner arrival slot =>
    if slot = i then
      match st with
      | .done => putLock p (.held owner arrival (after s.bridgeTime s.holdLimit)) s
      | _ => openLock p s
    else s
  | .held _ _ _ => s
  | .opened => s

/-! ## The fence-waiting order -/

/-- Whether a slot that its fence or its lock has released still waits for its turn at the ready point: a claim made in the event
may have moved it to LOCK_WAIT meanwhile (R59, R83; log 12). -/
def awaitsTurn (i : SlotId) (s : State) : Bool :=
  match slotUse s i with
  | none => false
  | some u =>
    match u.state with
    | .fenceWait => decide (i ∉ s.fenceOrder)
    | .lockWait => decide (i ∉ peek s.waiting u.port)
    | .ready => false
    | .sent => false
    | .assembling => false
    | .fillWait => false
    | .orphaned => false

/-- A released slot's turn at the ready point (R60, R83): the lock acts on the PortLost answer of its claiming read (R113). -/
def takeTurn (i : SlotId) (s : State) : State :=
  match slotUse s i with
  | none => s
  | some u =>
    if awaitsTurn i s then
      if lostAtReadyPoint u s then lockActs i u.port .portLost (readyPoint i s) else readyPoint i s
    else s

/-- R83: the fence-waiting order is tested; the slots released, and with them `others`, reach the ready point one at a time in
arrival order. -/
def testFences (others : List SlotId) (s : State) : State :=
  let released := s.fenceOrder.filter (fenceReleases s)
  let kept := s.fenceOrder.filter (fun i => !fenceReleases s i)
  (mergeByArrival (arrivalOf s) others released).foldl (fun s i => takeTurn i s) { s with fenceOrder := kept }

/-! ## Breaks and first states -/

/-- R120: a Claimed or Held lock is broken: it becomes Open, a Held lock's owner gets its broken flag, and a record is made. The
waiting order is left to the breaking event. -/
def breakLock (p : Port) (cause : BreakCause) (s : State) : State :=
  match peek s.locks p with
  | .opened => s
  | .claimed owner _ _ => storeRecord (.exclusiveBroken p owner .claimed cause) (putLock p .opened s)
  | .held owner _ _ =>
    storeRecord (.exclusiveBroken p owner .held cause) { putLock p .opened s with broken := addAgent s.broken owner }

/-- R58: the first state of a newly allocated slot. -/
def firstState (i : SlotId) (u : SlotUse) (s : State) : State :=
  if waitsForLock u s then enterLockWait i s
  else
    match u.kind, peek s.locks u.port with
    | .exclusiveRead, .opened => meetFence i (claimLock u.port i u s)
    | _, _ => meetFence i s

/-- The record of a slot at its allocation (R56, R57, R70). -/
def allocatedUse (e : NonPostedEntry) (k : SlotKind) (data : List Byte) (r : DecodeRecord) (s : State) : SlotUse :=
  { state := .ready, agent := e.agent, tag := e.tag, kind := k, arrival := e.arrival, generation := r.generation,
    port := r.port, address := r.address, length := r.length, cls := r.cls, domain := r.domain,
    prefetchable := r.prefetchable, writeData := data,
    received := if returnsData k then List.replicate r.length none else [], fillLink := none, mute := false,
    expiry := after s.bridgeTime s.timeout, timeoutAtAllocation := s.timeout, exited := false }

/-- The lowest-numbered FREE slot (R57). -/
def lowestFree (s : State) : Option SlotId := allSlots.find? (fun i => (slotUse s i).isNone)

/-- R9, R104: a write taken into a slot withdraws the buffers of its block. -/
def signalWrite (k : SlotKind) (r : DecodeRecord) (s : State) : State :=
  if isWrite k then withdrawBlock (keyOf r.port r.address) s else s

/-- R57: a slot is allocated: its epoch advances, its record is filled, its generation's count rises, a write withdraws its
block's buffers, and the slot takes its first state. -/
def allocate (e : NonPostedEntry) (k : SlotKind) (data : List Byte) (r : DecodeRecord) (s : State) : State :=
  match lowestFree s with
  | none => s
  | some i =>
    let u := allocatedUse e k data r s
    let s1 : State := { s with slots := poke s.slots i { epoch := (peek s.slots i).epoch + 1, use := some u } }
    firstState i u (signalWrite k r (countUp r.generation s1))

end Sys2Proof.Machine
end

