-- ==== Sys2Proof/Machine/Intake.lean ====
section
/-! DEFINITION. The exits of the posted and the non-posted intake (R28 to R34): the meanings of POSTED_INTAKE_EXIT and
NON_POSTED_INTAKE_EXIT, and the exits that other events bring about. -/

namespace Sys2Proof.Machine

/-! ## Posted intake -/

/-- The entry a decoded posted write becomes (R41, R42). -/
def queueEntry (e : PostedEntry) (r : DecodeRecord) : QueueEntry :=
  { arrival := e.arrival, generation := r.generation, domain := r.domain, address := r.address, length := r.length,
    data := e.data, sent := none }

/-- R9, R42: a decoded posted write joins the tail of its port's queue, raises its generation's count and withdraws its block's
buffers. -/
def enqueuePosted (e : PostedEntry) (r : DecodeRecord) (s : State) : State :=
  let q := peek s.pwqs r.port
  let s1 : State := { s with pwqs := poke s.pwqs r.port { q with entries := q.entries ++ [queueEntry e r] } }
  withdrawBlock (keyOf r.port r.address) (countUp r.generation s1)

/-- R10, R29: whether a decode lets the posted intake's head leave: all but an entry for a queue that is full. -/
def letsHeadLeave (d : Decoded) (s : State) : Bool :=
  match d with
  | .work r => decide ((peek s.pwqs r.port).entries.length < Config.queueSize)
  | .unmapped => true
  | .refused _ => true
  | .sink => true
  | .portLost _ => true
  | .misuse _ _ => true
  | .broken => true
  | .hit _ _ => true

/-- What the decode of a posted write does (R4, R5, R7, R8, R42). Rows 5 and 6 of R8 do not apply to a posted write. -/
def takePosted (e : PostedEntry) (d : Decoded) (s : State) : State :=
  match d with
  | .unmapped => if s.missRecords then storeRecord (.unmapped e.agent e.address none) s else s
  | .refused w => storeRecord (.refused e.agent e.address w none) s
  | .sink => s
  | .portLost p => storeRecord (.postedDropped e.agent e.address p) s
  | .work r => enqueuePosted e r s
  | .misuse _ _ => s
  | .broken => s
  | .hit _ _ => s

/-- R29: heads leave the posted intake, each looked up in turn, until one stays; `queue` is what the intake holds. -/
def exitPostedHeads : List PostedEntry → State → State
  | [], s => s
  | e :: rest, s =>
    let d := decode .posted e.agent e.address e.length s
    if letsHeadLeave d s then
      exitPostedHeads rest (appendEgress (.creditReturn .posted) (takePosted e d { s with postedIntake := rest }))
    else s

/-- The heads of the posted intake that can leave do so (R29). -/
def lookUpHead (s : State) : State := exitPostedHeads s.postedIntake s

/-- R83: the heads that can leave do so, and the fence-waiting order is tested if one left. -/
def exitHeadsAndTest (s : State) : State :=
  let s1 := lookUpHead s
  if s1.postedIntake.length = s.postedIntake.length then s1 else testFences [] s1

/-- POSTED_INTAKE_EXIT (R29): the head leaves if its lookup gives anything but an entry for a full queue; otherwise nothing
changes (log 2, log 5). -/
def execPostedIntakeExit (s : State) : Host.Outcome State Fault Refusal := event exitHeadsAndTest s

/-! ## Non-posted intake -/

/-- R31: an entry that would be answered at decode, or that may be given a slot. -/
def mayLeave (s : State) (e : NonPostedEntry) : Bool :=
  match e.body with
  | .release => true
  | .access k a n _ =>
    match decode (.nonPosted k) e.agent a n s with
    | .work _ => slotAvailable e.agent s
    | .unmapped => true
    | .refused _ => true
    | .sink => true
    | .portLost _ => true
    | .misuse _ _ => true
    | .broken => true
    | .hit _ _ => true

/-- R34: the completion of a request that takes no slot. -/
def answerNow (e : NonPostedEntry) (st : Status) (data : List Byte) (s : State) : State :=
  appendCompletion { agent := e.agent, tag := e.tag, status := st, data, words := [] } s

/-- The upstream kind of a slot's request (12.1). -/
def upKindOf : SlotKind → UpKind
  | .read => .read
  | .nonPostedWrite => .nonPostedWrite
  | .exclusiveRead => .exclusiveRead
  | .exclusiveWrite => .exclusiveWrite

/-- R7: the data of a read that a Sink absorbs. -/
def sinkData (k : SlotKind) (length : Nat) : List Byte := if returnsData k then List.replicate length 0#8 else []

/-- What the decode of a non-posted access does (R8, R34). -/
def takeAccess (e : NonPostedEntry) (k : SlotKind) (a : Addr) (n : Nat) (data : List Byte) (d : Decoded) (s : State) : State :=
  match d with
  | .unmapped =>
    answerNow e .unmapped (failData k n) (if s.missRecords then storeRecord (.unmapped e.agent a (some e.tag)) s else s)
  | .refused w => answerNow e .refused (failData k n) (storeRecord (.refused e.agent a w (some e.tag)) s)
  | .sink => answerNow e .done (sinkData k n) s
  | .portLost _ => answerNow e .portLost (failData k n) s
  | .misuse w c =>
    answerNow e .misuse (failData k n) (storeRecord (.exclusiveMisuse e.agent e.tag (upKindOf k) c (some w)) s)
  | .broken => answerNow e .broken (failData k n) s
  | .hit b block => answerNow e .done block (touchBuffer b s)
  | .work r => allocate e k data r s

/-- The port whose lock an agent Holds. -/
def heldPort (a : Agent) (s : State) : Option Port := allPorts.find? (fun p => holdsPort a p s)

/-- R115: an exclusive release, judged by the lock its agent owns. -/
def takeRelease (e : NonPostedEntry) (s : State) : State :=
  match heldPort e.agent s with
  | some p => openLock p (answerNow e .done [] s)
  | none =>
    if hasAgent s.broken e.agent then
      answerNow e .broken [] { s with broken := dropAgent s.broken e.agent }
    else
      answerNow e .misuse []
        (storeRecord
          (.exclusiveMisuse e.agent e.tag .exclusiveRelease (if ownsLock e.agent s then .notHeld else .noLock) none) s)

/-- R32: an entry leaves the non-posted intake, with its credit return, and is decoded in the state as it stands. -/
def exitNonPosted (e : NonPostedEntry) (s : State) : State :=
  let s1 := appendEgress (.creditReturn .nonPosted) { s with nonPostedIntake := s.nonPostedIntake.erase e }
  match e.body with
  | .release => takeRelease e s1
  | .access k a n data => takeAccess e k a n data (decode (.nonPosted k) e.agent a n s) s1

/-- The earlier of two entries by the comparison of R26; the first where neither is earlier (log 22). -/
def olderEntry (e x : NonPostedEntry) : NonPostedEntry := if earlier x.arrival e.arrival then x else e

/-- The oldest of some entries by the comparison of R26, taken over them in their places (R26, R32; log 22). -/
def oldestEntry : List NonPostedEntry → Option NonPostedEntry
  | [] => none
  | e :: rest => some (rest.foldl olderEntry e)

/-- The oldest eligible entry (R26, R32). -/
def oldestEligible (s : State) : Option NonPostedEntry := oldestEntry (s.nonPostedIntake.filter (mayLeave s))

/-- NON_POSTED_INTAKE_EXIT (R32): the oldest eligible entry leaves; with none, nothing changes (log 2). -/
def execNonPostedIntakeExit (s : State) : Host.Outcome State Fault Refusal :=
  match oldestEligible s with
  | some e => event (exitNonPosted e) s
  | none => .next s

end Sys2Proof.Machine
end

