-- ==== Sys2Proof/Machine/Ports.lean ====
section
/-! DEFINITION. The downstream ports: the port exit event in its seven steps (R138), port failures (R136), the meanings of the
messages from a target, of a link fault, and of the sends on the two lanes. -/

namespace Sys2Proof.Machine

/-- A port record replaced. -/
def putPort (p : Port) (r : PortRecord) (s : State) : State := { s with ports := poke s.ports p r }

/-! ## The port exit event (R138) -/

/-- Step 1: the port's state, with both credits and both grants 0 (R136, R137). -/
def leaveService (p : Port) (st : PortState) (s : State) : State :=
  putPort p
    { peek s.ports p with state := st, postedCredit := 0, nonPostedCredit := 0, postedGrant := 0, nonPostedGrant := 0 } s

/-- Step 2: every entry of the queue is discarded and counts as retired; a record if there was any (R51, R52). -/
def discardQueue (p : Port) (cause : DiscardCause) (s : State) : State :=
  let q := peek s.pwqs p
  let s1 : State := { s with pwqs := poke s.pwqs p { q with entries := [] } }
  let s2 := q.entries.foldl (fun s e => countDown e.generation s) s1
  if q.entries.isEmpty then s2 else storeRecord (.postedDiscarded p q.entries.length cause) s2

/-- Step 4: the slots that the break of the port's lock releases from its waiting order; they meet the ready point at step 7
(R121, R138). A lock that is Open is not broken and releases none. -/
def releasedByBreak (p : Port) (s : State) : List SlotId :=
  if (lockOwner (peek s.locks p)).isSome then peek s.waiting p else []

/-- A slot of the waiting order that a port exit releases: it enters FENCE_WAIT if its fence holds it (R121). -/
def meetFenceAtExit (i : SlotId) (s : State) : State :=
  match slotUse s i with
  | none => s
  | some u => if mustWaitAtFence u s then enterFenceWait i u s else s

/-- Step 4: the lock is broken if it is Claimed or Held, and its waiting order is released with no claim (R120, R121). -/
def breakAtExit (p : Port) (cause : BreakCause) (s : State) : State :=
  if (lockOwner (peek s.locks p)).isSome then
    let s1 := breakLock p cause s
    (releasedByBreak p s).foldl (fun s i => meetFenceAtExit i s) { s1 with waiting := poke s1.waiting p [] }
  else s

/-- A slot of the port that waits in LOCK_WAIT or FENCE_WAIT at the exit is marked (log 12). -/
def markWaiting (p : Port) (x : Slot) : Slot :=
  match x.use with
  | none => x
  | some u =>
    if u.port = p ∧ (u.state = .lockWait ∨ u.state = .fenceWait) then { x with use := some { u with exited := true } } else x

/-- A slot of the port that the exit answers: READY, SENT or ASSEMBLING (R74). -/
def endsAtExit (p : Port) (s : State) (i : SlotId) : Bool :=
  match slotUse s i with
  | some u =>
    decide (u.port = p) && (decide (u.state = .ready) || decide (u.state = .sent) || decide (u.state = .assembling))
  | none => false

/-- An ORPHANED slot of the port (R74). -/
def orphanOf (p : Port) (s : State) (i : SlotId) : Bool :=
  match slotUse s i with
  | some u => decide (u.port = p) && decide (u.state = .orphaned)
  | none => false

/-- A slot leaves its lists and is answered PortLost, with the fill it leads. -/
def lostAtExit (i : SlotId) (s : State) : State :=
  match slotUse s i with
  | none => s
  | some u => failSlot i .portLost (leaveLists i u s)

/-- Step 5: the port's READY, SENT and ASSEMBLING slots are answered PortLost in arrival order, each leader's followers right
after it; then its ORPHANED slots are freed (R74, R106). -/
def answerSlotsAtExit (p : Port) (s : State) : State :=
  let ending := mergeByArrival (arrivalOf s) (allSlots.filter (endsAtExit p s)) []
  let s1 := ending.foldl (fun s i => lostAtExit i s) s
  (allSlots.filter (orphanOf p s1)).foldl (fun s i => freeSlot i s) s1

/-- The causes a port exit's records name (R52, R121). -/
structure ExitCauses where
  discard : DiscardCause
  lock : BreakCause

/-- The exit of a port that has failed. -/
def ExitCauses.failure : ExitCauses := { discard := .failed, lock := .portFailed }

/-- The exit of a port that was disabled. -/
def ExitCauses.disable : ExitCauses := { discard := .disabled, lock := .portDisabled }

/-- Steps 2 to 7 of R138, each complete before the next. Step 4's released slots are among `released`: those their fence does
not hold meet the ready point at step 7. -/
def portExit (p : Port) (causes : ExitCauses) (s : State) : State :=
  let s2 := discardQueue p causes.discard s
  let s3 := freeValidBuffers p s2
  let s4 := breakAtExit p causes.lock { s3 with slots := s3.slots.map (markWaiting p) }
  let released := (releasedByBreak p s3).filter (fun i => decide (i ∉ s4.fenceOrder))
  let s5 := answerSlotsAtExit p s4
  let s6 := lookUpHead s5
  testFences released s6

/-- R136: a port enters Failed: its record, the PortFault record, and the exit. -/
def failPort (p : Port) (cause : FaultCause) (slot : Option SlotId) (s : State) : State :=
  let prior := (peek s.ports p).state
  let s1 := leaveService p .failed s
  let s2 := putPort p { peek s1.ports p with lastFault := some cause } s1
  portExit p ExitCauses.failure (storeRecord (.portFault p prior cause slot) s2)

/-! ## Messages from the target (R128 to R139) -/

/-- READY_MESSAGE (R128). -/
def takeReady (p : Port) (posted nonPosted : Nat) (s : State) : State :=
  let r := peek s.ports p
  match r.state with
  | .waiting =>
    if 1 ≤ posted ∧ posted ≤ 16 ∧ 1 ≤ nonPosted ∧ nonPosted ≤ 32 then
      putPort p
        { r with state := .active, postedGrant := posted, postedCredit := posted, nonPostedGrant := nonPosted,
                 nonPostedCredit := nonPosted } s
    else failPort p .badReady none s
  | .active => failPort p .unexpectedReady none s
  | .disabled => s
  | .failed => s

/-- READY_MESSAGE (R128). -/
def execReadyMessage (p : Port) (posted nonPosted : BitVec 6) (s : State) : Host.Outcome State Fault Refusal :=
  event (takeReady p posted.toNat nonPosted.toNat) s

/-- R129: what a message does at a port that is not Active: nothing. -/
def ifActive (p : Port) (act : State → State) (s : State) : State := if isActive p s then act s else s

/-- R131: a credit return, added to its lane's credit or a protocol fault. -/
def takeCredit (p : Port) (lane : Lane) (count : Nat) (s : State) : State :=
  let r := peek s.ports p
  match lane with
  | .posted =>
    if count = 0 ∨ r.postedGrant < r.postedCredit + count then failPort p .badCreditReturn none s
    else putPort p { r with postedCredit := r.postedCredit + count } s
  | .nonPosted =>
    if count = 0 ∨ r.nonPostedGrant < r.nonPostedCredit + count then failPort p .badCreditReturn none s
    else putPort p { r with nonPostedCredit := r.nonPostedCredit + count } s

/-- CREDIT_RETURN (R131). -/
def execCreditReturn (p : Port) (lane : Lane) (count : BitVec 6) (s : State) : Host.Outcome State Fault Refusal :=
  event (ifActive p (takeCredit p lane count.toNat)) s

/-- The oldest Sent entry of a port's posted write queue (R48). -/
def oldestSent (p : Port) (s : State) : Option QueueEntry := (peek s.pwqs p).entries.find? (fun e => e.sent.isSome)

/-- R49, R83: an entry is retired by its receipt: it leaves the queue, its generation's count decreases, the posted intake's
head is looked up again and the fences are tested. -/
def retire (p : Port) (e : QueueEntry) (s : State) : State :=
  let q := peek s.pwqs p
  let s1 : State := { s with pwqs := poke s.pwqs p { q with entries := q.entries.erase e } }
  testFences [] (lookUpHead (countDown e.generation s1))

/-- R48: a receipt retires the oldest Sent entry if it names that entry's number, and fails the port otherwise. -/
def takeReceipt (p : Port) (seq : WriteSeq) (s : State) : State :=
  match oldestSent p s with
  | some e => if e.sent = some seq then retire p e s else failPort p .badReceipt none s
  | none => failPort p .badReceipt none s

/-- RECEIPT (R48). -/
def execReceipt (p : Port) (seq : WriteSeq) (s : State) : Host.Outcome State Fault Refusal :=
  event (ifActive p (takeReceipt p seq)) s

/-- INTERRUPT_MESSAGE (R139): vectors 1 to 63 are raised, any other makes a BadInterrupt record. -/
def takeInterrupt (p : Port) (vector : BitVec 7) (s : State) : State :=
  match vectorOfField vector with
  | some v => if v = 0 then storeRecord (.badInterrupt p vector) s else raiseVector v s
  | none => storeRecord (.badInterrupt p vector) s

/-- INTERRUPT_MESSAGE (R139). -/
def execInterruptMessage (p : Port) (vector : BitVec 7) (s : State) : Host.Outcome State Fault Refusal :=
  event (ifActive p (takeInterrupt p vector)) s

/-- MALFORMED_MESSAGE (R134, R186). -/
def execMalformedMessage (p : Port) (s : State) : Host.Outcome State Fault Refusal :=
  event (ifActive p (failPort p .malformedMessage none)) s

/-- PORT_LINK_FAULT (R135): a Waiting or Active port fails; elsewhere the event is ignored. -/
def execPortLinkFault (p : Port) (s : State) : Host.Outcome State Fault Refusal :=
  event (fun s => if portInService p s then failPort p .linkFault none s else s) s

/-! ## Completion pieces (R65 to R68, R73) -/

/-- The slot a downstream tag names (12.2). -/
def tagSlot (tag : BitVec 8) : SlotId := ⟨(tag.extractLsb' 2 6).toNat, (tag.extractLsb' 2 6).isLt⟩

/-- The epoch a downstream tag names (12.2). -/
def tagEpoch (tag : BitVec 8) : BitVec 2 := tag.extractLsb' 0 2

/-- A state in which a slot takes pieces (R65). -/
def takesPieces (st : SlotState) : Bool := decide (st = .sent) || decide (st = .assembling) || decide (st = .orphaned)

/-- R179: why a piece from port `p` matches no slot, in the order of the rule; none when it matches. -/
def staleReason (p : Port) (tag : BitVec 8) (s : State) : Option StaleCause :=
  let x := peek s.slots (tagSlot tag)
  match x.use with
  | none => some .slotFree
  | some u =>
    if !takesPieces u.state then some .takesNoPieces
    else if x.epoch ≠ tagEpoch tag then some .epochDiffers
    else if u.port ≠ p then some .otherPort
    else none

/-- R66: the bytes of a piece put at their offsets. -/
def putBytes (area : List (Option Byte)) (offset : Nat) (data : List Byte) : List (Option Byte) :=
  area.take offset ++ data.map some ++ area.drop (offset + data.length)

/-- R66: a Good piece that is a protocol fault for a read. -/
def badReadPiece (u : SlotUse) (offset count : Nat) (data : List Byte) : Bool :=
  decide (count = 0) || decide (u.received.length < offset + count) ||
    ((u.received.drop offset).take count).any (fun x => x.isSome) || decide (data.length ≠ count)

/-- The bytes of a data area, once all are received. -/
def receivedBytes (area : List (Option Byte)) : List Byte := area.map (fun x => x.getD 0)

/-- R69, R100, R113: a read whose whole range is received is answered Done. A leader's followers are answered before its slot is
FREE (R69); the answer of an exclusive read reaches its lock after that. -/
def completeRead (i : SlotId) (u : SlotUse) (block : List Byte) (s : State) : State :=
  match u.fillLink with
  | some (.leader b) => freeSlot i (endFillDone b block (reply u .done (sliceOf block u.address u.length) s))
  | some (.follower _) => lockActs i u.port .done (answerSlot i .done block s)
  | none => lockActs i u.port .done (answerSlot i .done block s)

/-- R66: a Good piece for a SENT or ASSEMBLING read. -/
def takeReadPiece (p : Port) (i : SlotId) (u : SlotUse) (offset count : Nat) (data : List Byte) (s : State) : State :=
  if badReadPiece u offset count data then failPort p .badPiece (some i) s
  else
    let area := putBytes u.received offset data
    let u1 : SlotUse := { u with state := .assembling, received := area }
    let s1 := putUse i (some u1) s
    if area.all (fun x => x.isSome) then completeRead i u1 (receivedBytes area) s1 else s1

/-- R67: a Good piece for a SENT write. -/
def takeWritePiece (p : Port) (i : SlotId) (u : SlotUse) (count : Nat) (data : List Byte) (s : State) : State :=
  if count = 0 ∧ data = [] then lockActs i u.port .done (answerSlot i .done [] s) else failPort p .badPiece (some i) s

/-- R68: a Fault piece for a SENT or ASSEMBLING slot. -/
def takeFaultPiece (i : SlotId) (u : SlotUse) (s : State) : State :=
  lockActs i u.port .targetFault (failSlot i .targetFault s)

/-- R73: a piece for an ORPHANED slot frees it. -/
def takeLatePiece (p : Port) (i : SlotId) (status : PieceStatus) (s : State) : State :=
  storeRecord (.lateCompletion p i status) (freeSlot i s)

/-- R65: a piece that matches its slot. -/
def takeMatchingPiece (p : Port) (i : SlotId) (u : SlotUse) (status : PieceStatus) (offset count : Nat) (data : List Byte)
    (s : State) : State :=
  if u.state = .orphaned then takeLatePiece p i status s
  else
    match status with
    | .fault => takeFaultPiece i u s
    | .good =>
      match u.kind with
      | .read => takeReadPiece p i u offset count data s
      | .exclusiveRead => takeReadPiece p i u offset count data s
      | .nonPostedWrite => takeWritePiece p i u count data s
      | .exclusiveWrite => takeWritePiece p i u count data s

/-- A piece taken from an Active port: a Fault piece with data bytes is a malformed message (R186); a piece that matches no slot
makes a StaleCompletion record (R65). -/
def takePiece (p : Port) (tag : BitVec 8) (status : PieceStatus) (offset count : Nat) (data : List Byte) (s : State) : State :=
  if status = .fault ∧ data ≠ [] then failPort p .malformedMessage none s
  else
    match staleReason p tag s with
    | some cause => storeRecord (.staleCompletion p (tagSlot tag) status cause) s
    | none =>
      match slotUse s (tagSlot tag) with
      | some u => takeMatchingPiece p (tagSlot tag) u status offset count data s
      | none => s

/-- COMPLETION_PIECE (R65). -/
def execCompletionPiece (p : Port) (tag : BitVec 8) (status : PieceStatus) (offset : BitVec 8) (count : BitVec 9)
    (data : List Byte) (s : State) : Host.Outcome State Fault Refusal :=
  event (ifActive p (takePiece p tag status offset.toNat count.toNat data)) s

/-! ## Sends (R45, R63, R64, R132) -/

/-- A packet leaves on a port's link (log 11). -/
def transmitDown (p : Port) (x : DownstreamPacket) (s : State) : State :=
  { s with downstreamLinks := poke s.downstreamLinks p (peek s.downstreamLinks p ++ [x]) }

/-- R45: the oldest Queued entry becomes Sent with the next write sequence number. -/
def markSent (seq : WriteSeq) : List QueueEntry → List QueueEntry
  | [] => []
  | e :: rest => if e.sent.isNone then { e with sent := some seq } :: rest else e :: markSent seq rest

/-- R45: the posted lane sends an entry. -/
def sendPosted (p : Port) (e : QueueEntry) (s : State) : State :=
  let q := peek s.pwqs p
  let r := peek s.ports p
  let s1 : State := { s with pwqs := poke s.pwqs p { entries := markSent q.nextSeq q.entries, nextSeq := q.nextSeq + 1 } }
  let s2 := putPort p { r with postedCredit := r.postedCredit - 1, lastWinner := .posted } s1
  transmitDown p (.postedWrite q.nextSeq e.address e.length e.data) s2

/-- POSTED_WRITE_SEND (R44, R45, R132): if the arbiter grants the posted lane, its oldest Queued entry is sent; otherwise nothing
changes (log 2). -/
def execPostedWriteSend (p : Port) (s : State) : Host.Outcome State Fault Refusal :=
  match grantedLane p s, oldestQueued p s with
  | some .posted, some e => .next (sendPosted p e s)
  | _, _ => .next s

/-- R61, R64: what is sent downstream for a slot: a read of its range, or of the whole block for a leader; or its write. -/
def downstreamRequest (s : State) (i : SlotId) (u : SlotUse) : DownstreamPacket :=
  match u.kind with
  | .read =>
    if leadsFill u then .read (downstreamTag s i) (blockOf u.address) 256 else .read (downstreamTag s i) u.address u.length
  | .exclusiveRead => .read (downstreamTag s i) u.address u.length
  | .nonPostedWrite => .nonPostedWrite (downstreamTag s i) u.address u.length u.writeData
  | .exclusiveWrite => .nonPostedWrite (downstreamTag s i) u.address u.length u.writeData

/-- R63: the non-posted lane sends a slot. -/
def sendNonPosted (p : Port) (i : SlotId) (u : SlotUse) (s : State) : State :=
  let r := peek s.ports p
  let s1 : State := { s with dispatch := poke s.dispatch p (without i (peek s.dispatch p)) }
  let s2 := putPort p { r with nonPostedCredit := r.nonPostedCredit - 1, lastWinner := .nonPosted } s1
  transmitDown p (downstreamRequest s i u) (putUse i (some { u with state := .sent }) s2)

/-- NON_POSTED_SEND (R63, R132): if the arbiter grants the non-posted lane, the oldest slot of the dispatch list is sent;
otherwise nothing changes (log 2). -/
def execNonPostedSend (p : Port) (s : State) : Host.Outcome State Fault Refusal :=
  match grantedLane p s, peek s.dispatch p with
  | some .nonPosted, i :: _ =>
    match slotUse s i with
    | some u => .next (sendNonPosted p i u s)
    | none => .next s
  | _, _ => .next s

end Sys2Proof.Machine
end

