-- ==== Sys2Proof/Machine/Arrival.lean ====
section
/-! DEFINITION. The meanings of the upstream arrivals: the checks of R22 in their order, their records (R23), identifiers,
arrival numbers and credits (R25, R26, R28), and the take of a management request by an idle unit (R161). -/

namespace Sys2Proof.Machine

/-- R28: the agents spend one credit of a class on a request they send (log 10). -/
def spendCredit (c : CreditClass) (s : State) : State :=
  let k := s.agentCredits
  match c with
  | .posted => { s with agentCredits := { k with posted := k.posted - 1 } }
  | .nonPosted => { s with agentCredits := { k with nonPosted := k.nonPosted - 1 } }
  | .management => { s with agentCredits := { k with management := k.management - 1 } }

/-- R26: the arrival counter advances once its value has been given to a request. -/
def takeNumber (s : State) : State := { s with arrivalCounter := s.arrivalCounter + 1 }

/-- A packet framed with fewer than two address words takes a free value for the bits that did not arrive (log 7). -/
def takeFreeAddress (words : List Word) (s : State) : State :=
  if words.length < 2 then { s with freeReads := s.freeReads + 1 } else s

/-- The address of an arriving packet (12.1). -/
def arrivingAddress (words : List Word) (s : State) : Addr := addressOfWords words (Config.freeAddress s.freeReads)

/-- R22 row 4: the request would cross a 256-byte block boundary. A packet framed without its first address word is left to row 5
(R185; DEDUCED, log 7). -/
def crossesBlock (words : List Word) (length : Nat) : Bool :=
  match words with
  | [] => false
  | low :: _ => decide (256 < low.toNat % 256 + length)

/-- Rows 3 to 5 of R22 for a kind that carries an address: the first check that fails. `carried` is the number of data bytes its
length calls for. -/
def accessFault (length : Nat) (words : List Word) (data : List Byte) (carried : Nat) : Option MalformedCause :=
  if length = 0 ∨ 256 < length then some .length
  else if crossesBlock words length then some .blockBoundary
  else if words.length < 2 ∨ data.length ≠ carried then some .dataCount
  else none

/-- R22, R23: a packet that fails one of checks 1 to 5 is dropped with a Malformed record. -/
def dropMalformed (cause : MalformedCause) (a : Option Agent) (t : Option Tag) (addr : Option Addr) (s : State) : State :=
  storeRecord (.malformed cause a t addr) s

/-! ## Posted writes -/

/-- A posted write that passed the checks joins the posted intake; in an empty intake it is looked up at its arrival (R29). -/
def joinPosted (a : Agent) (addr : Addr) (length : Nat) (data : List Byte) (s : State) : State :=
  let e : PostedEntry := { agent := a, address := addr, length, data, arrival := s.arrivalCounter }
  let s1 := takeNumber { s with postedIntake := s.postedIntake ++ [e] }
  if s.postedIntake.isEmpty then exitHeadsAndTest s1 else s1

/-- Checks 2 to 7 of R22 for a posted write. -/
def arrivePosted (agent : BitVec 4) (length : Nat) (words : List Word) (data : List Byte) (s : State) : State :=
  let addr := arrivingAddress words s
  match agentOfField agent with
  | none => dropMalformed .fieldRange none none (some addr) s
  | some a =>
    match accessFault length words data length with
    | some cause => dropMalformed cause (some a) none (some addr) s
    | none =>
      if Config.postedIntakeSize ≤ s.postedIntake.length then storeRecord (.overrun a .posted) s
      else joinPosted a addr length data s

/-- POSTED_WRITE (R22, R29). -/
def execPostedWrite (agent : BitVec 4) (length : BitVec 9) (words : List Word) (data : List Byte) (s : State) :
    Host.Outcome State Fault Refusal :=
  event (fun s => takeFreeAddress words (arrivePosted agent length.toNat words data (spendCredit .posted s))) s

/-! ## Non-posted requests -/

/-- R25, R26, R27: a non-posted request joins its intake with an arrival number, and its identifier enters the set. -/
def joinNonPosted (a : Agent) (t : Tag) (body : NonPostedBody) (s : State) : State :=
  takeNumber (takeIdentifier a t
    { s with
      nonPostedIntake := s.nonPostedIntake ++ [{ agent := a, tag := t, body, arrival := s.arrivalCounter }] })

/-- Checks 6 and 7 of R22 for a non-posted request. -/
def admitNonPosted (a : Agent) (t : Tag) (kind : UpKind) (body : NonPostedBody) (s : State) : State :=
  if outstanding a t s then storeRecord (.duplicateTag a t kind) s
  else if Config.nonPostedIntakeSize ≤ s.nonPostedIntake.length then storeRecord (.overrun a .nonPosted) s
  else joinNonPosted a t body s

/-- The data bytes a kind's length calls for (R22 row 5). -/
def carriedBytes (k : SlotKind) (length : Nat) : Nat := if isWrite k then length else 0

/-- Checks 2 to 7 of R22 for a non-posted request with an address. -/
def arriveAccess (k : SlotKind) (agent : BitVec 4) (tag : BitVec 6) (length : Nat) (words : List Word) (data : List Byte)
    (s : State) : State :=
  let addr := arrivingAddress words s
  match agentOfField agent, tagOfField tag with
  | some a, some t =>
    match accessFault length words data (carriedBytes k length) with
    | some cause => dropMalformed cause (some a) (some t) (some addr) s
    | none => admitNonPosted a t (upKindOf k) (.access k addr length data) s
  | a, t => dropMalformed .fieldRange a t (some addr) s

/-- The arrival event of a non-posted request with an address. -/
def accessArrives (k : SlotKind) (agent : BitVec 4) (tag : BitVec 6) (length : BitVec 9) (words : List Word)
    (data : List Byte) (s : State) : State :=
  takeFreeAddress words (arriveAccess k agent tag length.toNat words data (spendCredit .nonPosted s))

/-- READ (R22). -/
def execRead (agent : BitVec 4) (tag : BitVec 6) (length : BitVec 9) (words : List Word) (data : List Byte) (s : State) :
    Host.Outcome State Fault Refusal :=
  event (accessArrives .read agent tag length words data) s

/-- NON_POSTED_WRITE (R22). -/
def execNonPostedWrite (agent : BitVec 4) (tag : BitVec 6) (length : BitVec 9) (words : List Word) (data : List Byte)
    (s : State) : Host.Outcome State Fault Refusal :=
  event (accessArrives .nonPostedWrite agent tag length words data) s

/-- EXCLUSIVE_READ (R22). -/
def execExclusiveRead (agent : BitVec 4) (tag : BitVec 6) (length : BitVec 9) (words : List Word) (data : List Byte)
    (s : State) : Host.Outcome State Fault Refusal :=
  event (accessArrives .exclusiveRead agent tag length words data) s

/-- EXCLUSIVE_WRITE (R22). -/
def execExclusiveWrite (agent : BitVec 4) (tag : BitVec 6) (length : BitVec 9) (words : List Word) (data : List Byte)
    (s : State) : Host.Outcome State Fault Refusal :=
  event (accessArrives .exclusiveWrite agent tag length words data) s

/-- R185: a release or a Service Done framed with more than its word 0 fails check 5. -/
def framedAlone (words : List Word) (data : List Byte) : Bool := words.isEmpty && data.isEmpty

/-- Checks 2, 5, 6 and 7 of R22 for an exclusive release. -/
def arriveRelease (agent : BitVec 4) (tag : BitVec 6) (words : List Word) (data : List Byte) (s : State) : State :=
  match agentOfField agent, tagOfField tag with
  | some a, some t =>
    if framedAlone words data then admitNonPosted a t .exclusiveRelease .release s
    else dropMalformed .dataCount (some a) (some t) none s
  | a, t => dropMalformed .fieldRange a t none s

/-- EXCLUSIVE_RELEASE (R22). -/
def execExclusiveRelease (agent : BitVec 4) (tag : BitVec 6) (words : List Word) (data : List Byte) (s : State) :
    Host.Outcome State Fault Refusal :=
  event (fun s => arriveRelease agent tag words data (spendCredit .nonPosted s)) s

/-! ## Management requests -/

/-- R161: the idle unit takes the head of the management intake, with its credit return. -/
def takeManagementHead (s : State) : State :=
  match s.current, s.managementIntake with
  | none, e :: rest => appendEgress (.creditReturn .management) { s with managementIntake := rest, current := some e }
  | none, [] => s
  | some _, _ => s

/-- R25, R26, R161: a management request joins its intake; in an empty intake it is taken at its arrival if the unit is Idle. -/
def joinManagement (e : ManagementEntry) (s : State) : State :=
  let s1 := takeNumber (takeIdentifier e.agent e.tag { s with managementIntake := s.managementIntake ++ [e] })
  if s.managementIntake.isEmpty then takeManagementHead s1 else s1

/-- Checks 6 and 7 of R22 for a management request. -/
def admitManagement (e : ManagementEntry) (s : State) : State :=
  if outstanding e.agent e.tag s then storeRecord (.duplicateTag e.agent e.tag .managementRequest) s
  else if Config.managementIntakeSize ≤ s.managementIntake.length then storeRecord (.overrun e.agent .management) s
  else joinManagement e s

/-- Checks 2, 5, 6 and 7 of R22 for a management request. -/
def arriveManagement (agent : BitVec 4) (tag : BitVec 6) (operation : BitVec 4) (index : BitVec 7) (words : List Word)
    (data : List Byte) (s : State) : State :=
  match agentOfField agent, tagOfField tag, indexOfField index with
  | some a, some t, some ix =>
    if 4 < words.length then dropMalformed .fieldRange (some a) (some t) none s
    else if data ≠ [] then dropMalformed .dataCount (some a) (some t) none s
    else admitManagement { agent := a, tag := t, operation, index := ix, words, arrival := s.arrivalCounter } s
  | a, t, _ => dropMalformed .fieldRange a t none s

/-- MANAGEMENT_REQUEST (R22, R161). -/
def execManagementRequest (agent : BitVec 4) (tag : BitVec 6) (operation : BitVec 4) (index : BitVec 7) (words : List Word)
    (data : List Byte) (s : State) : Host.Outcome State Fault Refusal :=
  event (fun s => arriveManagement agent tag operation index words data (spendCredit .management s)) s

/-- MANAGEMENT_TAKE (R161): a busy unit, or an empty intake, changes nothing (log 2). -/
def execManagementTake (s : State) : Host.Outcome State Fault Refusal := .next (takeManagementHead s)

/-! ## Service Done and unknown packets -/

/-- Checks 2 and 5 of R22 for a Service Done, which the steering unit then takes (R24). -/
def arriveServiceDone (agent : BitVec 4) (vector : BitVec 7) (words : List Word) (data : List Byte) (s : State) : State :=
  match agentOfField agent, vectorOfField vector with
  | some a, some v =>
    if framedAlone words data then takeServiceDone a v s else dropMalformed .dataCount (some a) none none s
  | a, _ => dropMalformed .fieldRange a none none s

/-- SERVICE_DONE (R24, R149). -/
def execServiceDone (agent : BitVec 4) (vector : BitVec 7) (words : List Word) (data : List Byte) (s : State) :
    Host.Outcome State Fault Refusal :=
  event (arriveServiceDone agent vector words data) s

/-- UNKNOWN_KIND_PACKET (R22 row 1, R23): dropped with a Malformed record that carries the agent if its value is within range; a
kind that the part does not take carries no tag and no address it could read (DEDUCED, log 9). -/
def execUnknownKindPacket (_kind agent : BitVec 4) (s : State) : Host.Outcome State Fault Refusal :=
  event (dropMalformed .unknownKind (agentOfField agent) none none) s

end Sys2Proof.Machine
end

