-- ==== Sys2Proof/Machine/Management.lean ====
section
/-! DEFINITION. The management unit: the checks at the execution end (R163), the order of what it appends (R164), and the
meanings of the operations' execution ends. Each command ends the current request that its row names; with the unit Idle, or a
current request of another row, no such execution end comes about and nothing changes (log 2, log 6). -/

namespace Sys2Proof.Machine

/-- The nine operations (R162). -/
inductive Operation where
  | readRegister
  | writeRegister
  | stageWindow
  | readWindow
  | commitWindows
  | portControl
  | writeVector
  | readVector
  | takeErrorRecord
  deriving DecidableEq, Repr

/-- The operation a code names, if any (12.3). -/
def operationOfCode (c : BitVec 4) : Option Operation :=
  match c.toNat with
  | 0 => some .readRegister
  | 1 => some .writeRegister
  | 2 => some .stageWindow
  | 3 => some .readWindow
  | 4 => some .commitWindows
  | 5 => some .portControl
  | 6 => some .writeVector
  | 7 => some .readVector
  | 8 => some .takeErrorRecord
  | _ => none

/-- The read operations (R162). -/
def isReadOperation : Operation → Bool
  | .readRegister => true
  | .readWindow => true
  | .readVector => true
  | .writeRegister => false
  | .stageWindow => false
  | .commitWindows => false
  | .portControl => false
  | .writeVector => false
  | .takeErrorRecord => false

/-- The number of operand words an operation requires (R162). -/
def operandCount : Operation → Nat
  | .readRegister => 0
  | .writeRegister => 1
  | .stageWindow => 4
  | .readWindow => 1
  | .commitWindows => 0
  | .portControl => 1
  | .writeVector => 1
  | .readVector => 0
  | .takeErrorRecord => 0

/-- What an operation has done: the state it left, its status, and the result words of a Done. -/
structure Answer where
  after : State
  status : Status
  words : List Word

/-- An operation answered Invalid, with nothing changed (R163). -/
def answerInvalid (s : State) : Answer := { after := s, status := .invalid, words := [] }

/-- An operation answered Done with no result words. -/
def answerDone (s : State) : Answer := { after := s, status := .done, words := [] }

/-- The ManagementRefused record of a request (R163). -/
def refusedRecord (r : ManagementEntry) : RecordBody := .managementRefused r.agent r.tag r.operation r.index

/-- R163: the checks of rows 1 to 3, and then the operation's own rule. -/
def answerRequest (r : ManagementEntry) (rule : ManagementEntry → State → Answer) (s : State) : Answer :=
  match operationOfCode r.operation with
  | none => answerInvalid s
  | some op =>
    if !isReadOperation op && !hasAgent s.managementMask r.agent then
      { after := storeRecord (refusedRecord r) s, status := .refused, words := [] }
    else if r.words.length ≠ operandCount op then answerInvalid s
    else rule r s

/-- R164: the execution end: what the operation appends, then the interrupt for vector 0, then the completion. -/
def endRequest (r : ManagementEntry) (rule : ManagementEntry → State → Answer) (s : State) : State :=
  let answer := answerRequest r rule { s with current := none }
  appendCompletion { agent := r.agent, tag := r.tag, status := answer.status, data := [], words := answer.words }
    (raiseOnFirstRecord s answer.after)

/-- The execution end of the current request, if the command's row names it. -/
def executionEnd (named : ManagementEntry → Bool) (rule : ManagementEntry → State → Answer) (s : State) :
    Host.Outcome State Fault Refusal :=
  match s.current with
  | some r => if named r then .next (endRequest r rule s) else .next s
  | none => .next s

/-- A request whose operation code is the given one. -/
def hasOperation (op : Operation) (r : ManagementEntry) : Bool := decide (operationOfCode r.operation = some op)

/-- A WRITE REGISTER of one register number. -/
def writesRegister (number : Nat) (r : ManagementEntry) : Bool := hasOperation .writeRegister r && decide (r.index.toNat = number)

/-- UNDEFINED_OPERATION (R163 row 1). -/
def execUndefinedOperation (s : State) : Host.Outcome State Fault Refusal :=
  executionEnd (fun r => decide (operationOfCode r.operation = none)) (fun _ s => answerInvalid s) s

/-! ## Registers (R167 to R169) -/

/-- R167: the named register's words. -/
def readRegisterRule (r : ManagementEntry) (s : State) : Answer :=
  match registerWords r.index s with
  | some words => { after := s, status := .done, words }
  | none => answerInvalid s

/-- READ_REGISTER (R167): every register but the error queue status, whose read has a row of its own. -/
def execReadRegister (s : State) : Host.Outcome State Fault Refusal :=
  executionEnd (fun r => hasOperation .readRegister r && decide (r.index.toNat ≠ 6)) readRegisterRule s

/-- R167, R181: the error queue status as it stood, and the overflow flag cleared. -/
def readErrorStatusRule (r : ManagementEntry) (s : State) : Answer :=
  match registerWords r.index s with
  | some words => { after := { s with overflow := false }, status := .done, words }
  | none => answerInvalid s

/-- READ_ERROR_QUEUE_STATUS (R167). -/
def execReadErrorQueueStatus (s : State) : Host.Outcome State Fault Refusal :=
  executionEnd (fun r => hasOperation .readRegister r && decide (r.index.toNat = 6)) readErrorStatusRule s

/-- The value word of a request that carries one operand word. -/
def valueWord (r : ManagementEntry) : Word := r.words.headD 0

/-- WRITE_REGISTER (R168): a read-only or unnamed register. -/
def execWriteRegister (s : State) : Host.Outcome State Fault Refusal :=
  executionEnd
    (fun r => hasOperation .writeRegister r && (decide (r.index.toNat = 0) || decide (6 ≤ r.index.toNat)))
    (fun _ s => answerInvalid s) s

/-- R169: a non-empty set of agents becomes the management agent mask. -/
def writeMaskRule (r : ManagementEntry) (s : State) : Answer :=
  let mask : AgentSet := bits (valueWord r) 0 8
  if mask = 0 then answerInvalid s else answerDone { s with managementMask := mask }

/-- WRITE_MANAGEMENT_AGENT_MASK (R169). -/
def execWriteManagementAgentMask (s : State) : Host.Outcome State Fault Refusal :=
  executionEnd (writesRegister 1) writeMaskRule s

/-- R5: bit 0 says whether Unmapped decodes make records. -/
def writeMissRule (r : ManagementEntry) (s : State) : Answer := answerDone { s with missRecords := (valueWord r).getLsbD 0 }

/-- WRITE_MISS_POLICY (R5). -/
def execWriteMissPolicy (s : State) : Host.Outcome State Fault Refusal := executionEnd (writesRegister 2) writeMissRule s

/-- R70: a non-zero completion timeout, for slots allocated afterward. -/
def writeTimeoutRule (r : ManagementEntry) (s : State) : Answer :=
  let d : Duration := bits (valueWord r) 0 12
  if d = 0 then answerInvalid s else answerDone { s with timeout := d }

/-- WRITE_COMPLETION_TIMEOUT (R70). -/
def execWriteCompletionTimeout (s : State) : Host.Outcome State Fault Refusal :=
  executionEnd (writesRegister 3) writeTimeoutRule s

/-- R119: a non-zero hold limit, for hold timers started afterward. -/
def writeHoldRule (r : ManagementEntry) (s : State) : Answer :=
  let d : Duration := bits (valueWord r) 0 12
  if d = 0 then answerInvalid s else answerDone { s with holdLimit := d }

/-- WRITE_EXCLUSIVE_HOLD_LIMIT (R119). -/
def execWriteExclusiveHoldLimit (s : State) : Host.Outcome State Fault Refusal :=
  executionEnd (writesRegister 4) writeHoldRule s

/-- R156: all eight masks, then the re-steer. -/
def writeMasksRule (r : ManagementEntry) (s : State) : Answer :=
  answerDone (resteer { s with agentMasks := bits (valueWord r) 0 8 })

/-- WRITE_AGENT_INTERRUPT_MASKS (R156). -/
def execWriteAgentInterruptMasks (s : State) : Host.Outcome State Fault Refusal :=
  executionEnd (writesRegister 5) writeMasksRule s

/-! ## Windows (R14 to R17) -/

/-- A window entry's index, if it is within 0 to 31. -/
def windowOfIndex (i : BitVec 6) : Option WindowId := if h : i.toNat < 32 then some ⟨i.toNat, h⟩ else none

/-- The window entry that a request's four operand words hold. -/
def windowOfRequest (r : ManagementEntry) : Option WindowEntry :=
  match r.words with
  | [w0, w1, w2, w3] => windowOfWords w0 w1 w2 w3
  | _ => none

/-- R14: Busy while a drain is in progress; Invalid for an index, a target or a range out of bounds; else the entry is staged. -/
def stageWindowRule (r : ManagementEntry) (s : State) : Answer :=
  if s.drain.isSome then { after := s, status := .busy, words := [] }
  else
    match windowOfIndex r.index, windowOfRequest r with
    | some i, some w => if w.limit < w.base then answerInvalid s else answerDone (stageEntry i w s)
    | _, _ => answerInvalid s

/-- STAGE_WINDOW (R14). -/
def execStageWindow (s : State) : Host.Outcome State Fault Refusal :=
  executionEnd (hasOperation .stageWindow) stageWindowRule s

/-- R15: the twelve fields of an entry of the named bank. -/
def readWindowRule (r : ManagementEntry) (s : State) : Answer :=
  match windowOfIndex r.index, bankOfCode (valueWord r) with
  | some i, some bank => { after := s, status := .done, words := windowWords (peek (bankOf bank s) i) }
  | _, _ => answerInvalid s

/-- READ_WINDOW (R15). -/
def execReadWindow (s : State) : Host.Outcome State Fault Refusal :=
  executionEnd (hasOperation .readWindow) readWindowRule s

/-- The other bank. -/
def otherBank : BankName → BankName
  | .a => .b
  | .b => .a

/-- R16: the banks swap, the generation advances, every buffer is withdrawn, and the posted intake's head is looked up again. -/
def swapBanks (s : State) : State :=
  exitHeadsAndTest
    (withdrawAll { s with activeBank := otherBank s.activeBank, generation := s.generation + 1 })

/-- R16, R17: the acceptance of a commit. The drain record is set once the event's other changes are made, so that a drain whose
count is 0 at the event's end completes after every other packet of the event (R17, R164). -/
def acceptCommit (r : ManagementEntry) (s : State) : State :=
  { swapBanks s with
    drain := some { generation := s.generation, agent := r.agent, tag := r.tag, suppressed := false } }

/-- A commit that is accepted: the management unit is Idle, the acceptance is made, vector 0 is raised if a record calls for it,
and a drain whose count is 0 ends last (R17, R148, R164). -/
def commitAccepted (r : ManagementEntry) (s : State) : State :=
  endDrainIfDone (raiseOnFirstRecord s (acceptCommit r { s with current := none }))

/-- A COMMIT WINDOWS that passes every check (R16, R163). -/
def commitPasses (r : ManagementEntry) (s : State) : Bool :=
  hasAgent s.managementMask r.agent && r.words.isEmpty && s.drain.isNone

/-- R16: a commit that passes the checks of R163 while a drain is in progress is answered Busy. -/
def busyRule (_ : ManagementEntry) (s : State) : Answer := { after := s, status := .busy, words := [] }

/-- COMMIT_WINDOWS (R16): accepted, with its completion left to the drain's end, or answered by its checks. -/
def execCommitWindows (s : State) : Host.Outcome State Fault Refusal :=
  match s.current with
  | some r =>
    if hasOperation .commitWindows r && commitPasses r s then .next (commitAccepted r s)
    else executionEnd (hasOperation .commitWindows) busyRule s
  | none => .next s

/-! ## Ports (R126, R127, R137) -/

/-- A PORT CONTROL whose operation code is the given one, or whose code or number of operand words is undefined, which any of
the three rows ends (R171, R187; log 6). -/
def portControlIs (code : Word) (r : ManagementEntry) : Bool :=
  hasOperation .portControl r && (decide (r.words = [code]) || !decide (r.words ∈ [[1#32], [2#32], [3#32]]))

/-- The port a request's index names, if any. -/
def portOfIndex (i : BitVec 6) : Option Port := if h : i.toNat < 4 then some ⟨i.toNat, h⟩ else none

/-- R127, R51: a port enters Waiting: credits and grants 0, last-winner non-posted, next write sequence number 0. -/
def enterWaiting (p : Port) (s : State) : State :=
  let s1 := putPort p
    { peek s.ports p with
      state := .waiting, postedCredit := 0, nonPostedCredit := 0, postedGrant := 0, nonPostedGrant := 0,
      lastWinner := .nonPosted } s
  { s1 with pwqs := poke s1.pwqs p { peek s1.pwqs p with nextSeq := 0 } }

/-- R126: an enable is accepted in Disabled. -/
def enableRule (p : Port) (s : State) : Answer :=
  if (peek s.ports p).state = .disabled then answerDone (enterWaiting p s) else answerInvalid s

/-- R126: a restart is accepted in Failed. -/
def restartRule (p : Port) (s : State) : Answer :=
  if (peek s.ports p).state = .failed then answerDone (enterWaiting p s) else answerInvalid s

/-- R126, R137: a disable is a port exit in Waiting, Active and Failed, and changes nothing in Disabled. -/
def disableRule (p : Port) (s : State) : Answer :=
  if (peek s.ports p).state = .disabled then answerDone s
  else answerDone (portExit p ExitCauses.disable (leaveService p .disabled s))

/-- R126, R171: the index and the operation code of a PORT CONTROL. -/
def portControlRule (r : ManagementEntry) (s : State) : Answer :=
  match portOfIndex r.index with
  | none => answerInvalid s
  | some p =>
    if valueWord r = 1 then enableRule p s
    else if valueWord r = 2 then disableRule p s
    else if valueWord r = 3 then restartRule p s
    else answerInvalid s

/-- PORT_CONTROL_ENABLE (R127). -/
def execPortControlEnable (s : State) : Host.Outcome State Fault Refusal := executionEnd (portControlIs 1) portControlRule s

/-- PORT_CONTROL_DISABLE (R137). -/
def execPortControlDisable (s : State) : Host.Outcome State Fault Refusal := executionEnd (portControlIs 2) portControlRule s

/-- PORT_CONTROL_RESTART (R126). -/
def execPortControlRestart (s : State) : Host.Outcome State Fault Refusal := executionEnd (portControlIs 3) portControlRule s

/-! ## Vectors (R154, R155) -/

/-- The vector a request's index names. -/
def vectorOfIndex (i : BitVec 6) : VectorId := ⟨i.toNat, i.isLt⟩

/-- An entry with its four writable fields taken from an operand word (12.3, R154). -/
def writtenEntry (w : Word) (mode : SteerMode) (e : VectorEntry) : VectorEntry :=
  { e with enabled := w.getLsbD 0, mode, fixedAgent := agentOfCode (bits w 3 3), agents := bits w 8 8 }

/-- R154: the four fields take the values carried, then the re-steer; a mode code that names no mode is Invalid. -/
def writeVectorRule (r : ManagementEntry) (s : State) : Answer :=
  let w := valueWord r
  let v := vectorOfIndex r.index
  match modeOfCode (bits w 1 2) with
  | none => answerInvalid s
  | some mode => answerDone (resteer { s with vectors := poke s.vectors v (writtenEntry w mode (peek s.vectors v)) })

/-- WRITE_VECTOR (R154). -/
def execWriteVector (s : State) : Host.Outcome State Fault Refusal :=
  executionEnd (hasOperation .writeVector) writeVectorRule s

/-- R155: the eight fields of an entry. -/
def readVectorRule (r : ManagementEntry) (s : State) : Answer :=
  { after := s, status := .done, words := vectorWords (peek s.vectors (vectorOfIndex r.index)) }

/-- READ_VECTOR (R155). -/
def execReadVector (s : State) : Host.Outcome State Fault Refusal :=
  executionEnd (hasOperation .readVector) readVectorRule s

/-! ## Error records (R173) -/

/-- R173, R180: the oldest record, or the empty indication. -/
def takeRecordRule (_ : ManagementEntry) (s : State) : Answer :=
  match s.records with
  | [] => { after := s, status := .done, words := emptyIndication }
  | x :: rest => { after := { s with records := rest }, status := .done, words := recordWords x }

/-- TAKE_ERROR_RECORD (R173). -/
def execTakeErrorRecord (s : State) : Host.Outcome State Fault Refusal :=
  executionEnd (hasOperation .takeErrorRecord) takeRecordRule s

end Sys2Proof.Machine
end

