-- ==== Sys2Proof/Machine/Resets.lean ====
section
/-! DEFINITION. The meanings of the cold reset and of the upstream link reset, each block's part in the order of the rules
(R19, R38, R39, R75, R89, R107, R122, R158, R165, R183). -/

namespace Sys2Proof.Machine

/-- COLD_RESET (00_scope.md, Resets): every block returns to its initial state. The commands that wait stay in the queue, and the
free values already drawn are not drawn again (log 17). -/
def execColdReset (s : State) : Host.Outcome State Fault Refusal :=
  .next { State.reset with pending := s.pending, freeReads := s.freeReads }

/-- R38, R39, R165, R19: the upstream port's part, the abandoned management request and the suppressed drain. -/
def resetUpstreamPort (s : State) : State :=
  { s with
    postedIntake := [], nonPostedIntake := [], managementIntake := [], ids := Vector.replicate 256 false, egress := []
    agentCredits := AgentCredits.full, current := none
    drain := s.drain.map (fun d => { d with suppressed := true }) }

/-- R122: every Claimed or Held lock is broken, in port order; no waiting order is processed, and every flag is cleared. -/
def resetLocks (s : State) : State :=
  { allPorts.foldl (fun s p => breakLock p .upstreamReset s) s with
    broken := 0, waiting := Vector.replicate 4 [] }

/-- R75: a slot that a reset frees without an answer; a buffer it leads becomes FREE. -/
def dropSlot (i : SlotId) (u : SlotUse) (s : State) : State :=
  match u.fillLink with
  | some (.leader b) => freeSlot i (putBuffer b .free s)
  | some (.follower _) => freeSlot i s
  | none => freeSlot i s

/-- R75: what the reset does to a slot. -/
def resetSlot (i : SlotId) (s : State) : State :=
  match slotUse s i with
  | none => s
  | some u =>
    match u.state with
    | .lockWait => dropSlot i u s
    | .fenceWait => dropSlot i u s
    | .ready => dropSlot i u s
    | .fillWait => dropSlot i u s
    | .sent => putUse i (some { u with mute := true }) s
    | .assembling => putUse i (some { u with mute := true }) s
    | .orphaned => s

/-- R107: a buffer keeps its state, key and leader, and loses the followers that the reset freed. -/
def dropFollowers : Buffer → Buffer
  | .filling k l _ => .filling k l []
  | .stale k l _ => .stale k l []
  | .valid k block => .valid k block
  | .free => .free

/-- R75, R89, R107: the tracker's, the ordering unit's and the buffers' part. -/
def resetTracker (s : State) : State :=
  let s1 := allSlots.foldl (fun s i => resetSlot i s) s
  { s1 with fenceOrder := [], dispatch := Vector.replicate 4 [], buffers := s1.buffers.map dropFollowers }

/-- R158: an InService entry becomes Pending, with no serving agent and its again flag clear. -/
def resetVector (e : VectorEntry) : VectorEntry :=
  match e.state with
  | .inService _ => { e with state := .pending, again := false }
  | .pending => e
  | .idle => e

/-- R158: vector 0 becomes Pending if it is Idle. -/
def pendVectorZero (s : State) : State := if (peek s.vectors 0).state = .idle then setVectorState 0 .pending s else s

/-- R158: the steering unit's step: entries and counts, the raise of vector 0 if the reset stored the first record, and the
re-steer. -/
def resetSteering (firstRecord : Bool) (s : State) : State :=
  let s1 : State := { s with vectors := s.vectors.map resetVector, serviceCounts := Vector.replicate 8 0 }
  resteer (if firstRecord then pendVectorZero s1 else s1)

/-- The upstream link reset, all of it one event (R38). -/
def upstreamReset (s : State) : State :=
  let s1 := storeRecord (.upstreamReset (identifierCount s)) (resetUpstreamPort s)
  let s2 := resetTracker (resetLocks s1)
  resetSteering s.records.isEmpty s2

/-- UPSTREAM_LINK_RESET (R38). -/
def execUpstreamLinkReset (s : State) : Host.Outcome State Fault Refusal := .next (upstreamReset s)

end Sys2Proof.Machine
end

