-- ==== Sys2Proof/Machine/Timers.lean ====
section
/-! DEFINITION. The meanings of the timers' expiries (R71 to R73, R119), of the bridge time's advance (R182), of the end of a
commit drain taken by itself (R17) and of a transmission from the egress queue (R36). A timer that is not due does not expire
(log 2, log 4). -/

namespace Sys2Proof.Machine

/-- R72: eight completion timeouts, reckoned from the slot's timeout at allocation, after a bridge time. -/
def afterOrphanTime (t : Time) (d : Duration) : Time := t + d.setWidth 32 * 128

/-- R72: a SENT or ASSEMBLING slot is answered Expired and becomes ORPHANED with the orphan timer; the fill it leads ends. -/
def orphanSlot (i : SlotId) (u : SlotUse) (s : State) : State :=
  let orphan : SlotUse :=
    { u with state := .orphaned, received := [], writeData := [], fillLink := none,
             expiry := afterOrphanTime s.bridgeTime u.timeoutAtAllocation }
  endLedFill u .expired (putUse i (some orphan) (reply u .expired (failData u.kind u.length) s))

/-- The status of a slot whose completion timer expires: Expired (R71, R72), and PortLost for one in FENCE_WAIT that waited there
through an exit of its port (R88, R137; DEDUCED, log 21). -/
def expiryStatus (u : SlotUse) : Status := if u.exited = true ∧ u.state = .fenceWait then .portLost else .expired

/-- R71: a slot that expires while it waits leaves its list, is answered and becomes FREE, with the fill it leads. -/
def expireWaiting (i : SlotId) (u : SlotUse) (s : State) : State := failSlot i (expiryStatus u) (leaveLists i u s)

/-- R71, R72, R113: a slot's completion timer expires in a state other than ORPHANED; the lock acts on the answer of its claiming
read. -/
def expireSlot (i : SlotId) (u : SlotUse) (s : State) : State :=
  let recorded := storeRecord (.completionExpired u.agent u.tag u.port i u.state) s
  let answered :=
    if u.state = .sent ∨ u.state = .assembling then orphanSlot i u recorded else expireWaiting i u recorded
  lockActs i u.port (expiryStatus u) answered

/-- COMPLETION_TIMER_EXPIRY (R71, R72). -/
def execCompletionTimerExpiry (i : SlotId) (s : State) : Host.Outcome State Fault Refusal :=
  match slotUse s i with
  | some u => if u.state ≠ .orphaned ∧ due s.bridgeTime u.expiry = true then event (expireSlot i u) s else .next s
  | none => .next s

/-- R73: the orphan timer frees an ORPHANED slot with an OrphanExpired record. -/
def expireOrphan (i : SlotId) (u : SlotUse) (s : State) : State := storeRecord (.orphanExpired u.port i) (freeSlot i s)

/-- ORPHAN_TIMER_EXPIRY (R73). -/
def execOrphanTimerExpiry (i : SlotId) (s : State) : Host.Outcome State Fault Refusal :=
  match slotUse s i with
  | some u => if u.state = .orphaned ∧ due s.bridgeTime u.expiry = true then event (expireOrphan i u) s else .next s
  | none => .next s

/-- R119, R120: the lock is broken with the cause "hold expiry" and its waiting order is processed. -/
def expireHold (p : Port) (s : State) : State := openLock p (breakLock p .holdExpiry s)

/-- HOLD_TIMER_EXPIRY (R119). -/
def execHoldTimerExpiry (p : Port) (s : State) : Host.Outcome State Fault Refusal :=
  match peek s.locks p with
  | .held _ _ expiry => if due s.bridgeTime expiry then event (expireHold p) s else .next s
  | .claimed _ _ _ => .next s
  | .opened => .next s

/-- COMMIT_DRAIN_END (R17): a running drain whose generation's count is 0 ends. Every decrease ends it in its own event
(`countDown`), so the command finds one only in a state that no event leaves (log 5). -/
def execCommitDrainEnd (s : State) : Host.Outcome State Fault Refusal := .next (endDrainIfDone s)

/-- BRIDGE_TIME_ADVANCE (R182): one microsecond, wrapping after 2^32 - 1. -/
def execBridgeTimeAdvance (s : State) : Host.Outcome State Fault Refusal := .next { s with bridgeTime := s.bridgeTime + 1 }

/-- R28: the agents receive one credit of a class. -/
def returnCredit (c : CreditClass) (k : AgentCredits) : AgentCredits :=
  match c with
  | .posted => { k with posted := k.posted + 1 }
  | .nonPosted => { k with nonPosted := k.nonPosted + 1 }
  | .management => { k with management := k.management + 1 }

/-- The credits the agents hold once they have received a packet (R28, log 10). -/
def creditsAfter (x : EgressPacket) (k : AgentCredits) : AgentCredits :=
  match x with
  | .creditReturn c => returnCredit c k
  | .completion _ => k
  | .interrupt _ _ => k

/-- EGRESS_TRANSMISSION (R36): the oldest packet of the egress queue is transmitted; an empty queue has none (log 2). -/
def execEgressTransmission (s : State) : Host.Outcome State Fault Refusal :=
  match s.egress with
  | [] => .next s
  | x :: rest =>
    .next { s with egress := rest, upstreamLink := s.upstreamLink ++ [x], agentCredits := creditsAfter x s.agentCredits }

end Sys2Proof.Machine
end

