-- ==== Sys2Proof/Machine/Dispatch.lean ====
section
/-! DEFINITION. The effect of every command on everything but the queue: one arm per constructor of Instr, one direct call of its
meaning. -/

namespace Sys2Proof.Machine

/-- The effect of a command. -/
def exec (i : Instr) (s : State) : Host.Outcome State Fault Refusal :=
  match i with
  | .coldReset => Sys2Proof.Machine.execColdReset s
  | .upstreamLinkReset => Sys2Proof.Machine.execUpstreamLinkReset s
  | .postedWrite agent length words data => Sys2Proof.Machine.execPostedWrite agent length words data s
  | .read agent tag length words data => Sys2Proof.Machine.execRead agent tag length words data s
  | .nonPostedWrite agent tag length words data => Sys2Proof.Machine.execNonPostedWrite agent tag length words data s
  | .exclusiveRead agent tag length words data => Sys2Proof.Machine.execExclusiveRead agent tag length words data s
  | .exclusiveWrite agent tag length words data => Sys2Proof.Machine.execExclusiveWrite agent tag length words data s
  | .exclusiveRelease agent tag words data => Sys2Proof.Machine.execExclusiveRelease agent tag words data s
  | .managementRequest agent tag operation index words data => Sys2Proof.Machine.execManagementRequest agent tag operation index words data s
  | .serviceDone agent vector words data => Sys2Proof.Machine.execServiceDone agent vector words data s
  | .unknownKindPacket kind agent => Sys2Proof.Machine.execUnknownKindPacket kind agent s
  | .postedIntakeExit => Sys2Proof.Machine.execPostedIntakeExit s
  | .nonPostedIntakeExit => Sys2Proof.Machine.execNonPostedIntakeExit s
  | .postedWriteSend port => Sys2Proof.Machine.execPostedWriteSend port s
  | .nonPostedSend port => Sys2Proof.Machine.execNonPostedSend port s
  | .readyMessage port postedGrant nonPostedGrant => Sys2Proof.Machine.execReadyMessage port postedGrant nonPostedGrant s
  | .creditReturn port lane count => Sys2Proof.Machine.execCreditReturn port lane count s
  | .receipt port seq => Sys2Proof.Machine.execReceipt port seq s
  | .completionPiece port tag status offset count data => Sys2Proof.Machine.execCompletionPiece port tag status offset count data s
  | .interruptMessage port vector => Sys2Proof.Machine.execInterruptMessage port vector s
  | .malformedMessage port => Sys2Proof.Machine.execMalformedMessage port s
  | .portLinkFault port => Sys2Proof.Machine.execPortLinkFault port s
  | .completionTimerExpiry slot => Sys2Proof.Machine.execCompletionTimerExpiry slot s
  | .orphanTimerExpiry slot => Sys2Proof.Machine.execOrphanTimerExpiry slot s
  | .holdTimerExpiry port => Sys2Proof.Machine.execHoldTimerExpiry port s
  | .commitDrainEnd => Sys2Proof.Machine.execCommitDrainEnd s
  | .managementTake => Sys2Proof.Machine.execManagementTake s
  | .undefinedOperation => Sys2Proof.Machine.execUndefinedOperation s
  | .readRegister => Sys2Proof.Machine.execReadRegister s
  | .readErrorQueueStatus => Sys2Proof.Machine.execReadErrorQueueStatus s
  | .writeRegister => Sys2Proof.Machine.execWriteRegister s
  | .writeManagementAgentMask => Sys2Proof.Machine.execWriteManagementAgentMask s
  | .writeMissPolicy => Sys2Proof.Machine.execWriteMissPolicy s
  | .writeCompletionTimeout => Sys2Proof.Machine.execWriteCompletionTimeout s
  | .writeExclusiveHoldLimit => Sys2Proof.Machine.execWriteExclusiveHoldLimit s
  | .writeAgentInterruptMasks => Sys2Proof.Machine.execWriteAgentInterruptMasks s
  | .stageWindow => Sys2Proof.Machine.execStageWindow s
  | .readWindow => Sys2Proof.Machine.execReadWindow s
  | .commitWindows => Sys2Proof.Machine.execCommitWindows s
  | .portControlEnable => Sys2Proof.Machine.execPortControlEnable s
  | .portControlDisable => Sys2Proof.Machine.execPortControlDisable s
  | .portControlRestart => Sys2Proof.Machine.execPortControlRestart s
  | .writeVector => Sys2Proof.Machine.execWriteVector s
  | .readVector => Sys2Proof.Machine.execReadVector s
  | .takeErrorRecord => Sys2Proof.Machine.execTakeErrorRecord s
  | .bridgeTimeAdvance => Sys2Proof.Machine.execBridgeTimeAdvance s
  | .egressTransmission => Sys2Proof.Machine.execEgressTransmission s

end Sys2Proof.Machine
end

