-- ==== Sys2Proof/Safety.lean ====
section
/-! DEFINITION. What it is for a state of the part to be safe: the laws the spec states of every state, as predicates. Every one
of them holds after a cold reset and is kept by every step (Certificates/Slice0/Obligations.lean says so). -/

namespace Sys2Proof.Machine

/-! ## Capacities, credits and settings -/

/-- R27, R40, R176: no intake, no posted write queue and no error record queue holds more than its capacity. -/
def WithinCapacities (s : State) : Prop :=
  s.postedIntake.length ≤ Config.postedIntakeSize ∧ s.nonPostedIntake.length ≤ Config.nonPostedIntakeSize ∧
    s.managementIntake.length ≤ Config.managementIntakeSize ∧
    (∀ p, (peek s.pwqs p).entries.length ≤ Config.queueSize) ∧ s.records.length ≤ Config.recordQueueSize

/-- R125, R130: a port record whose credits are within its grants; an Active port's grants are within 1 to 16 and 1 to 32, and
any other port's are 0. -/
def CreditsFit (r : PortRecord) : Prop :=
  r.postedCredit ≤ r.postedGrant ∧ r.nonPostedCredit ≤ r.nonPostedGrant ∧
    if r.state = .active then
      1 ≤ r.postedGrant ∧ r.postedGrant ≤ 16 ∧ 1 ≤ r.nonPostedGrant ∧ r.nonPostedGrant ≤ 32
    else r.postedGrant = 0 ∧ r.nonPostedGrant = 0

/-- R130: every port's credits are within its grants. -/
def CreditsWithinGrants (s : State) : Prop := ∀ p, CreditsFit (peek s.ports p)

/-- R70, R119, R169: the two durations that software programs are never 0, and the management agent mask is never empty. -/
def SettingsInRange (s : State) : Prop := s.timeout ≠ 0 ∧ s.holdLimit ≠ 0 ∧ s.managementMask ≠ 0

/-- R109: a lock is Claimed or Held only while its port is Waiting or Active. -/
def LocksInService (s : State) : Prop := ∀ p, peek s.locks p ≠ .opened → portInService p s = true

/-! ## Posted write queues -/

/-- R43: the Sent entries of a queue are its oldest ones, and carry consecutive write sequence numbers, the last of them one
below the next number to give. -/
def SentInOrder (q : PostedQueue) : Prop :=
  ∃ sent queued, q.entries = sent ++ queued ∧ (∀ e ∈ queued, e.sent = none) ∧
    ∀ k (h : k < sent.length), (sent[k]'h).sent = some (q.nextSeq - BitVec.ofNat 16 (sent.length - k))

/-- R43, R51: every queue's Sent entries are in order, and a port out of service has an empty queue. -/
def QueuesInOrder (s : State) : Prop :=
  ∀ p, SentInOrder (peek s.pwqs p) ∧ (portInService p s = false → (peek s.pwqs p).entries = [])

/-! ## Generations -/

/-- The posted write queue entries of a generation. -/
def queuedOf (g : Generation) (s : State) : Nat :=
  (allPorts.map (fun p => (peek s.pwqs p).entries.countP (fun e => decide (e.generation = g)))).sum

/-- Whether a slot holds a request of a generation. -/
def slotOfGeneration (g : Generation) (s : State) (i : SlotId) : Bool :=
  match slotUse s i with
  | some u => decide (u.generation = g)
  | none => false

/-- The tracker slots of a generation that are not FREE. -/
def slotsOf (g : Generation) (s : State) : Nat := allSlots.countP (slotOfGeneration g s)

/-- R12: every generation's outstanding count is the number of its queue entries and slots. -/
def CountsExact (s : State) : Prop := ∀ g, countOf g s = queuedOf g s + slotsOf g s

/-! ## Prefetch buffers -/

/-- The key of a buffer that reads may match: VALID or FILLING (R93). -/
def liveKey : Buffer → Option BufferKey
  | .valid k _ => some k
  | .filling k _ _ => some k
  | .stale _ _ _ => none
  | .free => none

/-- R93: for each key at most one buffer is VALID or FILLING. -/
def KeysUnique (s : State) : Prop :=
  ∀ b c k, liveKey (peek s.buffers b) = some k → liveKey (peek s.buffers c) = some k → b = c

/-- R95, R104: no posted write queue entry of the buffer's port lies in the block of a VALID or FILLING buffer, so that a read
answered from it sees no data older than a write decoded to the block. -/
def BuffersFresh (s : State) : Prop := ∀ b k, liveKey (peek s.buffers b) = some k → blockQueued k s = false

/-- The leader of a fill in progress. -/
def leaderOf : Buffer → Option SlotId
  | .filling _ l _ => some l
  | .stale _ l _ => some l
  | .valid _ _ => none
  | .free => none

/-- R92, R94: the LRU list holds exactly the VALID buffers, each once, and a slot that leads a fill leads a FILLING or STALE
buffer that names it. -/
def LruExact (s : State) : Prop :=
  s.lru.Nodup ∧ (∀ b, b ∈ s.lru ↔ isValid (peek s.buffers b) = true) ∧
    ∀ i u b, slotUse s i = some u → u.fillLink = some (.leader b) → leaderOf (peek s.buffers b) = some i

/-! ## Interrupt steering -/

/-- Whether a vector entry is InService to an agent. -/
def servedBy (a : Agent) (e : VectorEntry) : Bool := decide (e.state = .inService a)

/-- R142, R143: every agent's in-service count is the number of entries InService to it, and the again flag is set only while an
entry is InService. -/
def ServiceCountsExact (s : State) : Prop :=
  (∀ a, peek s.serviceCounts a = s.vectors.toList.countP (servedBy a)) ∧
    ∀ v, (peek s.vectors v).again = true → ∃ a, (peek s.vectors v).state = .inService a

/-- R146: an entry that stays Pending is disabled or has no eligible agent. -/
def PendingBlocked (s : State) : Prop :=
  ∀ v, (peek s.vectors v).state = .pending → (peek s.vectors v).enabled = true →
    ∀ a, eligibleAgent (peek s.vectors v) s.agentMasks a = false

end Sys2Proof.Machine
end

