-- ==== Sys2Proof/Certificates/Slice0/Obligations.lean ====
section
/-! DEFINITION. The statements for the provers. An equation `exec c s = .next t` gives the command's whole effect: every field
that `t` does not name is as it was. -/

section

open Sys2Proof Sys2Proof.Machine

/-! ## Steps -/

/-- A step takes the command at the front of the queue and runs it on the state with the rest; an empty queue idles (log 1). -/
def Obligations.StepRunsTheFrontCommand : Prop :=
  (∀ (c : Instr) (rest : List Instr) (s : State), s.pending = c :: rest → step s = exec c { s with pending := rest }) ∧
    ∀ s : State, s.pending = [] → step s = .next s

/-- No command stops the part, and none touches the queue (logs 1, 2). -/
def Obligations.EveryCommandAnswersNext : Prop :=
  ∀ (c : Instr) (s : State), ∃ t, exec c s = .next t ∧ t.pending = s.pending

/-! ## Resets -/

/-- A cold reset returns every block to its cold-reset state, with the values the rules give (the queue and the free values
drawn are the model's, log 17). -/
def Obligations.ColdResetReturnsEveryBlock : Prop :=
  (∀ s : State, exec .coldReset s = .next { State.reset with pending := s.pending, freeReads := s.freeReads }) ∧
    State.reset.activeBank = .a ∧ State.reset.generation = 0 ∧ State.reset.missRecords = true ∧ State.reset.drain = none ∧
    (let blank : WindowEntry :=
      { valid := false, base := 0, limit := 0, target := .port 0, downBase := 0, readRight := false, writeRight := false,
        exclusiveRight := false, agents := 0, prefetchable := false, cls := .strict, domain := 0 }
    ∀ i, peek State.reset.bankA i = blank ∧ peek State.reset.bankB i = blank) ∧
    (∀ g, peek State.reset.counts g = 0) ∧ (∀ i, peek State.reset.ids i = false) ∧ State.reset.arrivalCounter = 0 ∧
    State.reset.postedIntake = [] ∧ State.reset.nonPostedIntake = [] ∧ State.reset.managementIntake = [] ∧
    State.reset.agentCredits = { posted := 16, nonPosted := 16, management := 2 } ∧ State.reset.egress = [] ∧
    (∀ p, (peek State.reset.pwqs p).entries = [] ∧ (peek State.reset.pwqs p).nextSeq = 0) ∧
    (∀ i, peek State.reset.slots i = { epoch := 0, use := none }) ∧ (∀ p, peek State.reset.dispatch p = []) ∧
    State.reset.timeout = 1024 ∧ State.reset.fenceOrder = [] ∧ (∀ b, peek State.reset.buffers b = .free) ∧
    State.reset.lru = [] ∧ (∀ p, peek State.reset.locks p = .opened ∧ peek State.reset.waiting p = []) ∧
    State.reset.broken = 0 ∧ State.reset.holdLimit = 256 ∧
    (∀ p, peek State.reset.ports p =
      { state := .disabled, postedCredit := 0, nonPostedCredit := 0, postedGrant := 0, nonPostedGrant := 0,
        lastWinner := .nonPosted, lastFault := none }) ∧
    (∀ v, peek State.reset.vectors v =
      { enabled := decide (v = 0), mode := .fixed, agents := 0, fixedAgent := 0, cursor := 7, state := .idle,
        again := false }) ∧
    State.reset.agentMasks = 0 ∧ (∀ a, peek State.reset.serviceCounts a = 0) ∧ State.reset.current = none ∧
    State.reset.managementMask = 1 ∧ State.reset.records = [] ∧ State.reset.overflow = false ∧ State.reset.bridgeTime = 0

/-- The upstream link reset, all of it one event. It empties the intakes, the identifier set and the egress queue, gives the agents
full credit, abandons the current management request, breaks every lock and clears every broken flag, and empties the waiting
orders, the dispatch lists and the fence-waiting order (R38, R39, R89, R122, R165). Its records are the UpstreamReset record and then
one ExclusiveBroken record for each lock broken, D0 first, each stored or lost (R177, R183). A slot that has sent nothing is freed,
its generation's count falls by one and a buffer it leads becomes FREE; a SENT or ASSEMBLING slot is muted; every buffer loses its
followers (R12, R75, R107). A running drain is suppressed, and ends with the bank copy and no completion if the slots freed bring its
count to 0 (R17, R19). Every InService entry becomes Pending, vector 0 too if it is Idle and the queue was empty, every in-service
count is 0, and the re-steer then appends the first packets of the egress queue (R158). Everything else keeps its value. -/
def Obligations.UpstreamLinkResetClears : Prop :=
  ∀ s : State,
    let freed : List SlotUse :=
      ((List.finRange 64).filterMap (slotUse s)).filter (fun u =>
        decide (u.state = .lockWait ∨ u.state = .fenceWait ∨ u.state = .ready ∨ u.state = .fillWait))
    let freedOf (g : Generation) : Nat := freed.countP (fun u => decide (u.generation = g))
    let bodies : List RecordBody :=
      .upstreamReset (s.ids.toList.countP id) ::
        (List.finRange 4).filterMap (fun p =>
          match peek s.locks p with
          | .opened => none
          | .claimed owner _ _ => some (.exclusiveBroken p owner .claimed .upstreamReset)
          | .held owner _ _ => some (.exclusiveBroken p owner .held .upstreamReset))
    ∃ t, exec .upstreamLinkReset s = .next t ∧
      t = resteer
        { s with
          postedIntake := [], nonPostedIntake := [], managementIntake := [], ids := Vector.replicate 256 false, egress := []
          agentCredits := { posted := 16, nonPosted := 16, management := 2 }, current := none
          locks := Vector.replicate 4 .opened, waiting := Vector.replicate 4 [], broken := 0
          dispatch := Vector.replicate 4 [], fenceOrder := []
          records := s.records ++
            (bodies.take (32 - s.records.length)).map (fun b => { time := s.bridgeTime, body := b })
          overflow := s.overflow || decide (32 < s.records.length + bodies.length)
          vectors := Vector.ofFn (fun v : VectorId =>
            let e := peek s.vectors v
            match e.state with
            | .inService _ => { e with state := .pending, again := false }
            | .pending => e
            | .idle => if v = 0 ∧ s.records = [] then { e with state := .pending } else e)
          serviceCounts := Vector.replicate 8 0
          slots := t.slots, counts := t.counts, buffers := t.buffers
          drain := t.drain, bankA := t.bankA, bankB := t.bankB } ∧
      (∀ i, (peek t.slots i).epoch = (peek s.slots i).epoch ∧
        slotUse t i =
          match slotUse s i with
          | none => none
          | some u =>
            match u.state with
            | .sent => some { u with mute := true }
            | .assembling => some { u with mute := true }
            | .orphaned => some u
            | .lockWait => none
            | .fenceWait => none
            | .ready => none
            | .fillWait => none) ∧
      (∀ g, peek t.counts (genIndex g) = peek s.counts (genIndex g) - freedOf g) ∧
      (∀ b, peek t.buffers b =
        if ∃ u ∈ freed, u.fillLink = some (.leader b) then .free
        else
          match peek s.buffers b with
          | .filling k l _ => .filling k l []
          | .stale k l _ => .stale k l []
          | .valid k block => .valid k block
          | .free => .free) ∧
      (s.drain = none → t.drain = none ∧ t.bankA = s.bankA ∧ t.bankB = s.bankB) ∧
      ∀ d, s.drain = some d →
        let ends := freedOf d.generation ≠ 0 ∧ peek s.counts (genIndex d.generation) ≤ freedOf d.generation
        (ends →
          t.drain = none ∧ t.bankA = (match s.activeBank with | .a => s.bankA | .b => s.bankB) ∧
            t.bankB = (match s.activeBank with | .a => s.bankA | .b => s.bankB)) ∧
        (¬ ends → t.drain = some { d with suppressed := true } ∧ t.bankA = s.bankA ∧ t.bankB = s.bankB)

/-! ## Arrivals -/

/-- A posted write that passes the arrival checks joins the tail of the posted intake with the counter's value as its arrival
number; in an empty intake it is looked up at its arrival (R22, R26, R27, R29). The agents' credits are log 10; that words after the
two address words are ignored is log 8. -/
def Obligations.PostedWriteJoinsItsIntake : Prop :=
  ∀ (a : Agent) (length : BitVec 9) (low high : Word) (more : List Word) (data : List Byte) (s : State),
    1 ≤ length.toNat → length.toNat ≤ 256 → low.toNat % 256 + length.toNat ≤ 256 → data.length = length.toNat →
    s.postedIntake.length < 16 →
    let joined : State :=
      { s with
        postedIntake := s.postedIntake ++
          [{ agent := a, address := high.extractLsb' 0 8 ++ low, length := length.toNat, data,
             arrival := s.arrivalCounter }]
        arrivalCounter := s.arrivalCounter + 1
        agentCredits := { s.agentCredits with posted := s.agentCredits.posted - 1 } }
    exec (.postedWrite (BitVec.ofNat 4 a.val) length (low :: high :: more) data) s =
      .next (if s.postedIntake = [] then raiseOnFirstRecord s (exitHeadsAndTest joined) else joined)

/-- A non-posted request that passes the arrival checks joins the tail of the non-posted intake, takes an arrival number, and its
identifier enters the set (R22, R25, R26, R27). The agents' credits are log 10; that words after the two address words are ignored is
log 8. -/
def Obligations.NonPostedRequestsJoinTheirIntake : Prop :=
  ∀ (a : Agent) (g : Tag) (s : State), peek s.ids (idIndex a g) = false → s.nonPostedIntake.length < 16 →
    let joined (body : NonPostedBody) : State :=
      { s with
        nonPostedIntake := s.nonPostedIntake ++ [{ agent := a, tag := g, body, arrival := s.arrivalCounter }]
        arrivalCounter := s.arrivalCounter + 1
        ids := poke s.ids (idIndex a g) true
        agentCredits := { s.agentCredits with nonPosted := s.agentCredits.nonPosted - 1 } }
    exec (.exclusiveRelease (BitVec.ofNat 4 a.val) (BitVec.ofNat 6 g.val) [] []) s = .next (joined .release) ∧
    ∀ (length : BitVec 9) (low high : Word) (more : List Word),
      1 ≤ length.toNat → length.toNat ≤ 256 → low.toNat % 256 + length.toNat ≤ 256 →
      exec (.read (BitVec.ofNat 4 a.val) (BitVec.ofNat 6 g.val) length (low :: high :: more) []) s =
          .next (joined (.access .read (high.extractLsb' 0 8 ++ low) length.toNat [])) ∧
        exec (.exclusiveRead (BitVec.ofNat 4 a.val) (BitVec.ofNat 6 g.val) length (low :: high :: more) []) s =
          .next (joined (.access .exclusiveRead (high.extractLsb' 0 8 ++ low) length.toNat [])) ∧
        ∀ data : List Byte, data.length = length.toNat →
          exec (.nonPostedWrite (BitVec.ofNat 4 a.val) (BitVec.ofNat 6 g.val) length (low :: high :: more) data) s =
              .next (joined (.access .nonPostedWrite (high.extractLsb' 0 8 ++ low) length.toNat data)) ∧
            exec (.exclusiveWrite (BitVec.ofNat 4 a.val) (BitVec.ofNat 6 g.val) length (low :: high :: more) data) s =
              .next (joined (.access .exclusiveWrite (high.extractLsb' 0 8 ++ low) length.toNat data))

/-- A management request that passes the arrival checks becomes current, with its credit return, if the unit is Idle and its
intake empty, and joins the intake otherwise; MANAGEMENT_TAKE takes the head of the intake into an Idle unit (R22, R28, R161). The
agents' credits are log 10. -/
def Obligations.ManagementRequestsAreTakenInTurn : Prop :=
  (∀ (a : Agent) (g : Tag) (operation : BitVec 4) (index : BitVec 7) (words : List Word) (s : State),
    index.toNat < 64 → words.length ≤ 4 → peek s.ids (idIndex a g) = false → s.managementIntake.length < 2 →
    let e : ManagementEntry :=
      { agent := a, tag := g, operation, index := index.setWidth 6, words, arrival := s.arrivalCounter }
    let numbered : State :=
      { s with
        arrivalCounter := s.arrivalCounter + 1
        ids := poke s.ids (idIndex a g) true
        agentCredits := { s.agentCredits with management := s.agentCredits.management - 1 } }
    exec (.managementRequest (BitVec.ofNat 4 a.val) (BitVec.ofNat 6 g.val) operation index words []) s =
      .next (if s.managementIntake = [] ∧ s.current = none then
          { numbered with current := some e, egress := s.egress ++ [.creditReturn .management] }
        else { numbered with managementIntake := s.managementIntake ++ [e] })) ∧
    ∀ (e : ManagementEntry) (rest : List ManagementEntry) (s : State), s.current = none → s.managementIntake = e :: rest →
      exec .managementTake s =
        .next { s with managementIntake := rest, current := some e, egress := s.egress ++ [.creditReturn .management] }

/-- The arrival checks of R22 in their order for every kind of packet, and the record each one makes (R22, R23, R185): the packet
enters no intake and takes no number. `arrivingAddress` and `takeFreeAddress` are the model's treatment of a packet framed without
its address words (log 7): the bits that did arrive are the address's, and one free value is drawn. That words after the two address
words fail no check is log 8, what the record of an unknown kind carries is log 9, and the agents' credits are log 10. -/
def Obligations.FailedChecksDropThePacket : Prop :=
  (∀ (words : List Word) (s : State),
    (∀ (low high : Word) (more : List Word), words = low :: high :: more →
      arrivingAddress words s = high.extractLsb' 0 8 ++ low ∧ takeFreeAddress words s = s) ∧
    (∀ low : Word, words = [low] → (arrivingAddress words s).extractLsb' 0 32 = low) ∧
    (words.length < 2 → takeFreeAddress words s = { s with freeReads := s.freeReads + 1 })) ∧
  (∀ f : BitVec 6, tagOfField f = if h : f.toNat < 32 then some ⟨f.toNat, h⟩ else none) ∧
  (∀ (kind : BitVec 4) (a : Agent) (s : State),
    exec (.unknownKindPacket kind (BitVec.ofNat 4 a.val)) s =
      .next (raiseOnFirstRecord s (storeRecord (.malformed .unknownKind (some a) none none) s))) ∧
  (∀ (kind agent : BitVec 4) (s : State), 8 ≤ agent.toNat →
    exec (.unknownKindPacket kind agent) s =
      .next (raiseOnFirstRecord s (storeRecord (.malformed .unknownKind none none none) s))) ∧
  (∀ (k : SlotKind) (agent : BitVec 4) (tag : BitVec 6) (length : BitVec 9) (words : List Word) (data : List Byte) (s : State),
    let packet : Instr :=
      match k with
      | .read => .read agent tag length words data
      | .nonPostedWrite => .nonPostedWrite agent tag length words data
      | .exclusiveRead => .exclusiveRead agent tag length words data
      | .exclusiveWrite => .exclusiveWrite agent tag length words data
    let carried := if k = .nonPostedWrite ∨ k = .exclusiveWrite then length.toNat else 0
    let spent : State := { s with agentCredits := { s.agentCredits with nonPosted := s.agentCredits.nonPosted - 1 } }
    let dropped (body : RecordBody) : Host.Outcome State Fault Refusal :=
      .next (raiseOnFirstRecord s (takeFreeAddress words (storeRecord body spent)))
    let addr := arrivingAddress words s
    (8 ≤ agent.toNat → exec packet s = dropped (.malformed .fieldRange none (tagOfField tag) (some addr))) ∧
    ∀ a : Agent, agent = BitVec.ofNat 4 a.val →
      (32 ≤ tag.toNat → exec packet s = dropped (.malformed .fieldRange (some a) none (some addr))) ∧
      ∀ g : Tag, tag = BitVec.ofNat 6 g.val →
        (length.toNat = 0 ∨ 256 < length.toNat →
          exec packet s = dropped (.malformed .length (some a) (some g) (some addr))) ∧
        (1 ≤ length.toNat → length.toNat ≤ 256 →
          (∀ (low : Word) (rest : List Word), words = low :: rest → 256 < low.toNat % 256 + length.toNat →
            exec packet s = dropped (.malformed .blockBoundary (some a) (some g) (some addr))) ∧
          ((∀ (low : Word) (rest : List Word), words = low :: rest → low.toNat % 256 + length.toNat ≤ 256) →
            (words.length < 2 ∨ data.length ≠ carried →
              exec packet s = dropped (.malformed .dataCount (some a) (some g) (some addr))) ∧
            (2 ≤ words.length → data.length = carried →
              (peek s.ids (idIndex a g) = true → exec packet s = dropped (.duplicateTag a g (upKindOf k))) ∧
              (peek s.ids (idIndex a g) = false → 16 ≤ s.nonPostedIntake.length →
                exec packet s = dropped (.overrun a .nonPosted)))))) ∧
  (∀ (agent : BitVec 4) (length : BitVec 9) (words : List Word) (data : List Byte) (s : State),
    let packet : Instr := .postedWrite agent length words data
    let spent : State := { s with agentCredits := { s.agentCredits with posted := s.agentCredits.posted - 1 } }
    let dropped (body : RecordBody) : Host.Outcome State Fault Refusal :=
      .next (raiseOnFirstRecord s (takeFreeAddress words (storeRecord body spent)))
    let addr := arrivingAddress words s
    (8 ≤ agent.toNat → exec packet s = dropped (.malformed .fieldRange none none (some addr))) ∧
    ∀ a : Agent, agent = BitVec.ofNat 4 a.val →
      (length.toNat = 0 ∨ 256 < length.toNat →
        exec packet s = dropped (.malformed .length (some a) none (some addr))) ∧
      (1 ≤ length.toNat → length.toNat ≤ 256 →
        (∀ (low : Word) (rest : List Word), words = low :: rest → 256 < low.toNat % 256 + length.toNat →
          exec packet s = dropped (.malformed .blockBoundary (some a) none (some addr))) ∧
        ((∀ (low : Word) (rest : List Word), words = low :: rest → low.toNat % 256 + length.toNat ≤ 256) →
          (words.length < 2 ∨ data.length ≠ length.toNat →
            exec packet s = dropped (.malformed .dataCount (some a) none (some addr))) ∧
          (2 ≤ words.length → data.length = length.toNat → 16 ≤ s.postedIntake.length →
            exec packet s = dropped (.overrun a .posted))))) ∧
  (∀ (agent : BitVec 4) (tag : BitVec 6) (words : List Word) (data : List Byte) (s : State),
    let packet : Instr := .exclusiveRelease agent tag words data
    let spent : State := { s with agentCredits := { s.agentCredits with nonPosted := s.agentCredits.nonPosted - 1 } }
    let dropped (body : RecordBody) : Host.Outcome State Fault Refusal := .next (raiseOnFirstRecord s (storeRecord body spent))
    (8 ≤ agent.toNat → exec packet s = dropped (.malformed .fieldRange none (tagOfField tag) none)) ∧
    ∀ a : Agent, agent = BitVec.ofNat 4 a.val →
      (32 ≤ tag.toNat → exec packet s = dropped (.malformed .fieldRange (some a) none none)) ∧
      ∀ g : Tag, tag = BitVec.ofNat 6 g.val →
        (words ≠ [] ∨ data ≠ [] → exec packet s = dropped (.malformed .dataCount (some a) (some g) none)) ∧
        (words = [] → data = [] →
          (peek s.ids (idIndex a g) = true → exec packet s = dropped (.duplicateTag a g .exclusiveRelease)) ∧
          (peek s.ids (idIndex a g) = false → 16 ≤ s.nonPostedIntake.length →
            exec packet s = dropped (.overrun a .nonPosted)))) ∧
  (∀ (agent : BitVec 4) (tag : BitVec 6) (operation : BitVec 4) (index : BitVec 7) (words : List Word) (data : List Byte)
      (s : State),
    let packet : Instr := .managementRequest agent tag operation index words data
    let spent : State := { s with agentCredits := { s.agentCredits with management := s.agentCredits.management - 1 } }
    let dropped (body : RecordBody) : Host.Outcome State Fault Refusal := .next (raiseOnFirstRecord s (storeRecord body spent))
    (8 ≤ agent.toNat → exec packet s = dropped (.malformed .fieldRange none (tagOfField tag) none)) ∧
    ∀ a : Agent, agent = BitVec.ofNat 4 a.val →
      (32 ≤ tag.toNat → exec packet s = dropped (.malformed .fieldRange (some a) none none)) ∧
      ∀ g : Tag, tag = BitVec.ofNat 6 g.val →
        (64 ≤ index.toNat ∨ 4 < words.length →
          exec packet s = dropped (.malformed .fieldRange (some a) (some g) none)) ∧
        (index.toNat < 64 → words.length ≤ 4 →
          (data ≠ [] → exec packet s = dropped (.malformed .dataCount (some a) (some g) none)) ∧
          (data = [] →
            (peek s.ids (idIndex a g) = true → exec packet s = dropped (.duplicateTag a g .managementRequest)) ∧
            (peek s.ids (idIndex a g) = false → 2 ≤ s.managementIntake.length →
              exec packet s = dropped (.overrun a .management))))) ∧
  ∀ (agent : BitVec 4) (vector : BitVec 7) (words : List Word) (data : List Byte) (s : State),
    let packet : Instr := .serviceDone agent vector words data
    let dropped (body : RecordBody) : Host.Outcome State Fault Refusal := .next (raiseOnFirstRecord s (storeRecord body s))
    (8 ≤ agent.toNat → exec packet s = dropped (.malformed .fieldRange none none none)) ∧
    ∀ a : Agent, agent = BitVec.ofNat 4 a.val →
      (64 ≤ vector.toNat → exec packet s = dropped (.malformed .fieldRange (some a) none none)) ∧
      (vector.toNat < 64 → words ≠ [] ∨ data ≠ [] →
        exec packet s = dropped (.malformed .dataCount (some a) none none))

/-! ## Error records -/

/-- A record joins the newest end of a queue with room, stamped with the bridge time; a full queue loses it and sets the
overflow flag; nothing else changes. The first record stored into an empty queue raises vector 0 (R151, R177). -/
def Obligations.RecordsAreStoredOrLost : Prop :=
  ∀ (body : RecordBody) (s : State),
    (s.records.length < 32 →
      storeRecord body s = { s with records := s.records ++ [{ time := s.bridgeTime, body }] }) ∧
    (32 ≤ s.records.length → storeRecord body s = { s with overflow := true }) ∧
    (s.records = [] → raiseOnFirstRecord s (storeRecord body s) = raiseVector 0 (storeRecord body s)) ∧
    (s.records ≠ [] → raiseOnFirstRecord s (storeRecord body s) = storeRecord body s)

/-- TAKE_ERROR_RECORD returns the oldest record, which leaves the queue, or the empty indication; the overflow flag stays
(R173, R180). The four words of a record: its kind, one presence mark for each optional field it has, and the fields, with its cause
numbered as its kind numbers it; every other bit is 0 (R178, R187, 12.4). -/
def Obligations.TakeErrorRecordTakesTheOldest : Prop :=
  (∀ (r : ManagementEntry) (s : State), s.current = some r → r.operation = 8 → r.words = [] →
    hasAgent s.managementMask r.agent = true →
    (∀ (x : ErrorRecord) (rest : List ErrorRecord), s.records = x :: rest →
      exec .takeErrorRecord s =
        .next (appendCompletion { agent := r.agent, tag := r.tag, status := .done, data := [], words := recordWords x }
          { s with current := none, records := rest })) ∧
    (s.records = [] →
      exec .takeErrorRecord s =
        .next (appendCompletion { agent := r.agent, tag := r.tag, status := .done, data := [], words := [0, 0, 0, 0] }
          { s with current := none }))) ∧
  ∀ x : ErrorRecord,
    let agentField (a : Option Agent) : BitVec 3 := match a with | some a => BitVec.ofNat 3 a.val | none => 0
    let tagField (t : Option Tag) : BitVec 5 := match t with | some t => BitVec.ofNat 5 t.val | none => 0
    let windowField (w : Option WindowId) : BitVec 5 := match w with | some w => BitVec.ofNat 5 w.val | none => 0
    let slotField (i : Option SlotId) : BitVec 6 := match i with | some i => BitVec.ofNat 6 i.val | none => 0
    let portField (p : Port) : BitVec 2 := BitVec.ofNat 2 p.val
    let requestField (k : UpKind) : BitVec 3 :=
      match k with
      | .postedWrite => 0 | .read => 1 | .nonPostedWrite => 2 | .exclusiveRead => 3
      | .exclusiveWrite => 4 | .exclusiveRelease => 5 | .managementRequest => 6 | .serviceDone => 7
    let statusField (st : PieceStatus) : BitVec 4 := match st with | .good => 0 | .fault => 1
    let word0 (request : BitVec 3) (port : BitVec 2) (tag : BitVec 5) (agent : BitVec 3) (marks : BitVec 14) (kind : BitVec 5) :
        Word := request ++ port ++ tag ++ agent ++ marks ++ kind
    let word2 (high : BitVec 8) (status : BitVec 4) (state : BitVec 3) (window : BitVec 5) (cause : BitVec 4) : Word :=
      0#8 ++ high ++ status ++ state ++ window ++ cause
    let word3 (operation : BitVec 4) (index : BitVec 6) (vector : BitVec 7) (count : BitVec 9) (slot : BitVec 6) : Word :=
      operation ++ index ++ vector ++ count ++ slot
    let low (a : Addr) : Word := a.extractLsb' 0 32
    let high (a : Addr) : BitVec 8 := a.extractLsb' 32 8
    recordWords x =
      match x.body with
      | .malformed c a t addr =>
        let cause : BitVec 4 :=
          match c with | .unknownKind => 1 | .fieldRange => 2 | .length => 3 | .blockBoundary => 4 | .dataCount => 5
        let marks : BitVec 14 :=
          0b1000000000#10 ++ BitVec.ofBool addr.isSome ++ 0#1 ++ BitVec.ofBool t.isSome ++ BitVec.ofBool a.isSome
        [word0 0 0 (tagField t) (agentField a) marks 1, x.time,
         word2 (match addr with | some a => high a | none => 0) 0 0 0 cause, match addr with | some a => low a | none => 0]
      | .duplicateTag a t k =>
        [word0 (requestField k) 0 (tagField (some t)) (agentField (some a)) 0b00010000000011 2, x.time, 0, 0]
      | .overrun a c =>
        let cause : BitVec 4 := match c with | .posted => 1 | .nonPosted => 2 | .management => 3
        [word0 0 0 0 (agentField (some a)) 0b10000000000001 3, x.time, word2 0 0 0 0 cause, 0]
      | .unmapped a addr t =>
        [word0 0 0 (tagField t) (agentField (some a)) (0b000000000010#12 ++ BitVec.ofBool t.isSome ++ 1#1) 4, x.time,
         word2 (high addr) 0 0 0 0, low addr]
      | .refused a addr w t =>
        [word0 0 0 (tagField t) (agentField (some a)) (0b000000000110#12 ++ BitVec.ofBool t.isSome ++ 1#1) 5, x.time,
         word2 (high addr) 0 0 (windowField (some w)) 0, low addr]
      | .postedDropped a addr p =>
        [word0 0 (portField p) 0 (agentField (some a)) 0b00000000001101 6, x.time, word2 (high addr) 0 0 0 0, low addr]
      | .postedDiscarded p n c =>
        let cause : BitVec 4 := match c with | .failed => 1 | .disabled => 2
        [word0 0 (portField p) 0 0 0b10000001000100 7, x.time, word2 0 0 0 0 cause, word3 0 0 0 (BitVec.ofNat 9 n) 0]
      | .completionExpired a t p i st =>
        let cause : BitVec 4 :=
          match st with
          | .lockWait => 1 | .fenceWait => 2 | .ready => 3 | .fillWait => 4 | .sent => 5 | .assembling => 6 | .orphaned => 0
        [word0 0 (portField p) (tagField (some t)) (agentField (some a)) 0b10000000100111 8, x.time, word2 0 0 0 0 cause,
         word3 0 0 0 0 (slotField (some i))]
      | .lateCompletion p i st =>
        [word0 0 (portField p) 0 0 0b01000000100100 9, x.time, word2 0 (statusField st) 0 0 0,
         word3 0 0 0 0 (slotField (some i))]
      | .orphanExpired p i =>
        [word0 0 (portField p) 0 0 0b00000000100100 10, x.time, 0, word3 0 0 0 0 (slotField (some i))]
      | .staleCompletion p i st c =>
        let cause : BitVec 4 := match c with | .slotFree => 1 | .takesNoPieces => 2 | .epochDiffers => 3 | .otherPort => 4
        [word0 0 (portField p) 0 0 0b11000000100100 11, x.time, word2 0 (statusField st) 0 0 cause,
         word3 0 0 0 0 (slotField (some i))]
      | .portFault p st c i =>
        let state : BitVec 3 := match st with | .disabled => 0 | .waiting => 1 | .active => 2 | .failed => 3
        let cause : BitVec 4 :=
          match c with
          | .badReceipt => 1 | .badPiece => 2 | .badCreditReturn => 3 | .unexpectedReady => 4 | .malformedMessage => 5
          | .linkFault => 6 | .badReady => 7
        [word0 0 (portField p) 0 0 (0b10100000#8 ++ BitVec.ofBool i.isSome ++ 0b00100#5) 12, x.time, word2 0 0 state 0 cause,
         word3 0 0 0 0 (slotField i)]
      | .exclusiveBroken p a st c =>
        let state : BitVec 3 := match st with | .claimed => 1 | .held => 2
        let cause : BitVec 4 :=
          match c with | .holdExpiry => 1 | .portFailed => 2 | .portDisabled => 3 | .upstreamReset => 4
        [word0 0 (portField p) 0 (agentField (some a)) 0b10100000000101 13, x.time, word2 0 0 state 0 cause, 0]
      | .exclusiveMisuse a t k c w =>
        let cause : BitVec 4 :=
          match c with | .sequenceInProgress => 1 | .noLock => 2 | .otherPort => 3 | .notHeld => 4 | .sink => 5
        [word0 (requestField k) 0 (tagField (some t)) (agentField (some a))
           (0b100100000#9 ++ BitVec.ofBool w.isSome ++ 0b0011#4) 14, x.time, word2 0 0 0 (windowField w) cause, 0]
      | .badInterrupt p v => [word0 0 (portField p) 0 0 0b00000010000100 15, x.time, 0, word3 0 0 v 0 0]
      | .serviceMismatch a v c =>
        let cause : BitVec 4 := match c with | .idle => 1 | .pending => 2 | .otherAgent => 3
        [word0 0 0 0 (agentField (some a)) 0b10000010000001 16, x.time, word2 0 0 0 0 cause,
         word3 0 0 (BitVec.ofNat 7 v.val) 0 0]
      | .managementRefused a t operation index =>
        [word0 0 0 (tagField (some t)) (agentField (some a)) 0b00001100000011 17, x.time, 0, word3 operation index 0 0 0]
      | .upstreamReset n => [word0 0 0 0 0 0b00000001000000 18, x.time, 0, word3 0 0 0 (BitVec.ofNat 9 n) 0]

/-! ## Windows -/

/-- Lookup finds the valid entry of the active bank with the lowest index whose range of pages contains the address's page; with
none it is Unmapped. A request that crosses no 256-byte block stays in that page, so the entry contains all of it (R3). -/
def Obligations.LookupFindsTheLowestEntry : Prop :=
  ∀ (a : Addr) (s : State),
    let page (x : Addr) : Page := x.extractLsb' 12 28
    let contains (i : WindowId) : Prop :=
      let w := peek (match s.activeBank with | .a => s.bankA | .b => s.bankB) i
      w.valid = true ∧ w.base ≤ page a ∧ page a ≤ w.limit
    (∀ i, lookup a s = some i ↔ contains i ∧ ∀ j, j < i → ¬ contains j) ∧ (lookup a s = none ↔ ∀ i, ¬ contains i) ∧
      ∀ k : Nat, a.toNat % 256 + k < 256 → page (a + BitVec.ofNat 40 k) = page a

/-- The rows of R8 in their order. The rights a kind needs: read for a read, write for a write, exclusive for an exclusive read,
exclusive and write for an exclusive write (R4). An agent has a sequence in progress while it owns a Claimed or Held lock, or while an
exclusive read of it is in LOCK_WAIT (R110, R111). A port is in service in Waiting and in Active (R7, R109). -/
def Obligations.DecodeFollowsTheTable : Prop :=
  (∀ (kind : AccessKind) (agent : Agent) (a : Addr) (length : Nat) (s : State),
    (lookup a s = none → decode kind agent a length s = .unmapped) ∧
    ∀ i, lookup a s = some i →
      let w := peek (match s.activeBank with | .a => s.bankA | .b => s.bankB) i
      let passes : Prop :=
        w.agents.getLsbD agent.val = true ∧
          match kind with
          | .posted => w.writeRight = true
          | .nonPosted .read => w.readRight = true
          | .nonPosted .nonPostedWrite => w.writeRight = true
          | .nonPosted .exclusiveRead => w.exclusiveRight = true
          | .nonPosted .exclusiveWrite => w.exclusiveRight = true ∧ w.writeRight = true
      let exclusive := kind = .nonPosted .exclusiveRead ∨ kind = .nonPosted .exclusiveWrite
      let broken := s.broken.getLsbD agent.val = true
      let holds (p : Port) := ∃ arrival expiry, peek s.locks p = .held agent arrival expiry
      let owns (p : Port) := holds p ∨ ∃ arrival slot, peek s.locks p = .claimed agent arrival slot
      let inSequence :=
        (∃ p, owns p) ∨ ∃ j u, slotUse s j = some u ∧ u.state = .lockWait ∧ u.kind = .exclusiveRead ∧ u.agent = agent
      (¬ passes → decode kind agent a length s = .refused i) ∧
      (passes → w.target = .sink →
        (exclusive → decode kind agent a length s = .misuse i .sink) ∧
        (¬ exclusive → decode kind agent a length s = .sink)) ∧
      (∀ p, passes → w.target = .port p → portInService p s = false → decode kind agent a length s = .portLost p) ∧
      ∀ p, passes → w.target = .port p → portInService p s = true →
        let r : DecodeRecord :=
          { window := i, port := p, address := a - (w.base ++ 0#12) + (w.downBase ++ 0#12), length, cls := w.cls,
            domain := w.domain, prefetchable := w.prefetchable, generation := s.generation }
        let buffered := findValid { port := p, block := blockOf r.address } s
        (kind = .posted ∨ kind = .nonPosted .nonPostedWrite → decode kind agent a length s = .work r) ∧
        (kind = .nonPosted .read →
          (∀ b block, w.cls = .relaxed → w.prefetchable = true → buffered = some (b, block) →
            decode kind agent a length s = .hit b ((block.drop (r.address.toNat % 256)).take length)) ∧
          (w.cls ≠ .relaxed ∨ w.prefetchable = false ∨ buffered = none → decode kind agent a length s = .work r)) ∧
        (kind = .nonPosted .exclusiveRead →
          (broken → decode kind agent a length s = .broken) ∧
          (¬ broken → inSequence → decode kind agent a length s = .misuse i .sequenceInProgress) ∧
          (¬ broken → ¬ inSequence → decode kind agent a length s = .work r)) ∧
        (kind = .nonPosted .exclusiveWrite →
          (broken → decode kind agent a length s = .broken) ∧
          (¬ broken → holds p → decode kind agent a length s = .work r) ∧
          (¬ broken → ¬ holds p → owns p → decode kind agent a length s = .misuse i .notHeld) ∧
          (¬ broken → ¬ owns p → (∃ q, owns q) → decode kind agent a length s = .misuse i .otherPort) ∧
          (¬ broken → (∀ q, ¬ owns q) → decode kind agent a length s = .misuse i .noLock))) ∧
  ∀ (p : Port) (s : State),
    portInService p s = true ↔ (peek s.ports p).state = .waiting ∨ (peek s.ports p).state = .active

/-- The translation keeps a request's offset in its page, so a request within one 256-byte block stays within one: its block is the
translation of its block (R6). The block of an address is the address rounded down to a multiple of 256 (R93). -/
def Obligations.TranslationKeepsThePageOffset : Prop :=
  ∀ (w : WindowEntry) (a : Addr),
    (downstreamAddress w a).toNat % 4096 = a.toNat % 4096 ∧
    (downstreamAddress w a).toNat =
      (a.toNat + 2 ^ 40 - w.base.toNat * 4096 + w.downBase.toNat * 4096) % 2 ^ 40 ∧
    blockOf (downstreamAddress w a) = downstreamAddress w (blockOf a) ∧ (blockOf a).toNat = a.toNat / 256 * 256

/-! ## The posted intake -/

/-- The head leaves the posted intake if its lookup gives anything but an entry for a queue of 16: it is decoded, its credit
return is appended, the heads after it are looked up in turn (`lookUpHead`), and once one has left the fence-waiting order is
tested (`exitHeadsAndTest`). A head whose queue is full stays, and nothing changes; nor does it with an empty intake (R10, R29;
log 2, log 5). A test of the fence-waiting order releases, oldest first, each slot with no earlier posted write in the posted
intake and none of its domain in a queue; each reaches the ready point before the next, slots that the event releases elsewhere at
their arrival-number positions, and the others stay (R80, R83). The lock acts on the PortLost answer that its claiming read gets
there (R60, R113; log 12 for the mark `exited`, and for a slot that a claim made meanwhile has moved before its turn). -/
def Obligations.PostedHeadLeavesOrStays : Prop :=
  (∀ s : State, s.postedIntake = [] → lookUpHead s = s ∧ exitHeadsAndTest s = s ∧ exec .postedIntakeExit s = .next s) ∧
  (∀ (e : PostedEntry) (rest : List PostedEntry) (s : State), s.postedIntake = e :: rest →
    let d := decode .posted e.agent e.address e.length s
    let taken := takePosted e d { s with postedIntake := rest }
    ((∃ r, d = .work r ∧ 16 ≤ (peek s.pwqs r.port).entries.length) →
      lookUpHead s = s ∧ exitHeadsAndTest s = s ∧ exec .postedIntakeExit s = .next s) ∧
    ((∀ r, d = .work r → (peek s.pwqs r.port).entries.length < 16) →
      lookUpHead s = lookUpHead { taken with egress := taken.egress ++ [.creditReturn .posted] } ∧
        exitHeadsAndTest s = testFences [] (lookUpHead s) ∧
        exec .postedIntakeExit s = .next (raiseOnFirstRecord s (exitHeadsAndTest s)))) ∧
  (∀ (others : List SlotId) (s : State),
    let clear (i : SlotId) : Bool :=
      match slotUse s i with
      | none => false
      | some u =>
        s.postedIntake.all (fun e => decide ((u.arrival - e.arrival).toInt ≤ 0)) &&
          (List.finRange 4).all (fun p => (peek s.pwqs p).entries.all (fun e =>
            decide (e.domain ≠ u.domain ∨ (u.arrival - e.arrival).toInt ≤ 0)))
    testFences others s =
      (mergeByArrival (arrivalOf s) others (s.fenceOrder.filter clear)).foldl (fun t i => takeTurn i t)
        { s with fenceOrder := s.fenceOrder.filter (fun i => !clear i) }) ∧
  ∀ (i : SlotId) (s : State),
    (slotUse s i = none → takeTurn i s = s) ∧
    ∀ u, slotUse s i = some u →
      let released := (u.state = .fenceWait ∧ i ∉ s.fenceOrder) ∨ (u.state = .lockWait ∧ i ∉ peek s.waiting u.port)
      let lost := portInService u.port s = false ∨ u.exited = true
      (released → lost → takeTurn i s = lockActs i u.port .portLost (readyPoint i s)) ∧
      (released → ¬ lost → takeTurn i s = readyPoint i s) ∧
      (¬ released → takeTurn i s = s)

/-- What the decode of a posted write does: dropped with the record its row gives, absorbed by a Sink, or appended to its port's
queue as Queued, with its generation's count up by one and the buffers of its block withdrawn (R4, R5, R7, R8, R9, R42). A
withdrawal makes the VALID buffer of the block FREE, out of the LRU list, and the FILLING one STALE; no other buffer changes
(R104). -/
def Obligations.PostedWriteOutcomes : Prop :=
  (∀ (e : PostedEntry) (s : State),
    takePosted e .unmapped s =
        (if s.missRecords = true then storeRecord (.unmapped e.agent e.address none) s else s) ∧
    (∀ w, takePosted e (.refused w) s = storeRecord (.refused e.agent e.address w none) s) ∧
    takePosted e .sink s = s ∧
    (∀ p, takePosted e (.portLost p) s = storeRecord (.postedDropped e.agent e.address p) s) ∧
    ∀ r : DecodeRecord,
      takePosted e (.work r) s =
        withdrawBlock { port := r.port, block := blockOf r.address }
          { s with
            pwqs := poke s.pwqs r.port
              { peek s.pwqs r.port with
                entries := (peek s.pwqs r.port).entries ++
                  [{ arrival := e.arrival, generation := r.generation, domain := r.domain, address := r.address,
                     length := r.length, data := e.data, sent := none }] }
            counts := poke s.counts (genIndex r.generation) (peek s.counts (genIndex r.generation) + 1) }) ∧
  ∀ (key : BufferKey) (s : State),
    withdrawBlock key s =
      { s with
        buffers := s.buffers.map (fun b =>
          match b with
          | .free => .free
          | .filling k l fs => if k = key then .stale k l fs else .filling k l fs
          | .stale k l fs => .stale k l fs
          | .valid k block => if k = key then .free else .valid k block)
        lru := s.lru.filter (fun b =>
          match peek s.buffers b with
          | .valid k _ => decide (k ≠ key)
          | _ => false) }

/-! ## The non-posted intake -/

/-- The oldest eligible entry leaves, by the comparison of R26 whatever the age of the numbers: an eligible entry that is earlier
than every other eligible one is the oldest. An entry is eligible when it would be answered at decode or may be given a slot, which
an owner of a lock may when one is FREE, and another agent when the FREE slots exceed the locked ports (R26, R31, R32). With no
eligible entry nothing changes (log 2); where none is earlier than all the others, the entries are compared in their places
(log 22). -/
def Obligations.OldestEligibleEntryLeaves : Prop :=
  (∀ s : State, (∀ e ∈ s.nonPostedIntake, mayLeave s e = false) → exec .nonPostedIntakeExit s = .next s) ∧
  (∀ (first e : NonPostedEntry) (rest : List NonPostedEntry) (s : State),
    s.nonPostedIntake.filter (mayLeave s) = first :: rest →
    (e = rest.foldl (fun best x => if 0 < (best.arrival - x.arrival).toInt then x else best) first ∨
      (e ∈ first :: rest ∧ ∀ x ∈ first :: rest, x ≠ e → 0 < (x.arrival - e.arrival).toInt)) →
    let left : State :=
      { s with nonPostedIntake := s.nonPostedIntake.erase e, egress := s.egress ++ [.creditReturn .nonPosted] }
    (e.body = .release → exec .nonPostedIntakeExit s = .next (raiseOnFirstRecord s (takeRelease e left))) ∧
    ∀ k a n data, e.body = .access k a n data →
      exec .nonPostedIntakeExit s =
        .next (raiseOnFirstRecord s
          (takeAccess e k a n data (decode (.nonPosted k) e.agent a n s) left))) ∧
  ∀ (e : NonPostedEntry) (s : State),
    (e.body = .release → mayLeave s e = true) ∧
    ∀ k a n data, e.body = .access k a n data →
      ((∀ r, decode (.nonPosted k) e.agent a n s ≠ .work r) → mayLeave s e = true) ∧
      ∀ r, decode (.nonPosted k) e.agent a n s = .work r →
        let free := (List.finRange 64).countP (fun i => (slotUse s i).isNone)
        let locked := (List.finRange 4).countP (fun p => decide (peek s.locks p ≠ .opened))
        let owner :=
          ∃ p, (∃ arrival slot, peek s.locks p = .claimed e.agent arrival slot) ∨
            ∃ arrival expiry, peek s.locks p = .held e.agent arrival expiry
        (owner → (mayLeave s e = true ↔ 0 < free)) ∧ (¬ owner → (mayLeave s e = true ↔ locked < free))

/-- What a decode answers at once: the status, the data and the record of each row of R8 (R4, R5, R7, R34, R35, R96). A record
names the request by its upstream kind (12.1). -/
def Obligations.AnswersAtDecode : Prop :=
  (upKindOf .read = .read ∧ upKindOf .nonPostedWrite = .nonPostedWrite ∧ upKindOf .exclusiveRead = .exclusiveRead ∧
    upKindOf .exclusiveWrite = .exclusiveWrite) ∧
  ∀ (e : NonPostedEntry) (k : SlotKind) (a : Addr) (n : Nat) (data : List Byte) (s : State),
    let filled (x : Byte) : List Byte := if k = .read ∨ k = .exclusiveRead then List.replicate n x else []
    let answered (st : Status) (bytes : List Byte) (t : State) : State :=
      appendCompletion { agent := e.agent, tag := e.tag, status := st, data := bytes, words := [] } t
    takeAccess e k a n data .unmapped s =
        answered .unmapped (filled 0xFF)
          (if s.missRecords = true then storeRecord (.unmapped e.agent a (some e.tag)) s else s) ∧
    (∀ w, takeAccess e k a n data (.refused w) s =
        answered .refused (filled 0xFF) (storeRecord (.refused e.agent a w (some e.tag)) s)) ∧
    takeAccess e k a n data .sink s = answered .done (filled 0) s ∧
    (∀ p, takeAccess e k a n data (.portLost p) s = answered .portLost (filled 0xFF) s) ∧
    (∀ w c, takeAccess e k a n data (.misuse w c) s =
        answered .misuse (filled 0xFF)
          (storeRecord (.exclusiveMisuse e.agent e.tag (upKindOf k) c (some w)) s)) ∧
    takeAccess e k a n data .broken s = answered .broken (filled 0xFF) s ∧
    ∀ b block, takeAccess e k a n data (.hit b block) s =
        answered .done block { s with lru := s.lru.filter (fun c => c ≠ b) ++ [b] }

/-- An exclusive release: Done, with its agent's Held lock opened; Broken, with the broken flag cleared; or Misuse, with a record
and no lock changed (R115). A lock that opens takes its port's waiting order from the oldest and lets each slot meet its fence before
the next, up to the first exclusive read if the port is in service: that read claims the lock and meets its fence, and the slots
after it that belong to its agent are then released in order (R118). A claiming read that is answered there, as R127 has it of one
that waited through an exit of its port, opens the lock again, and the waiting order is processed anew (R113; log 12). -/
def Obligations.ReleaseIsJudgedByItsAgentsLock : Prop :=
  (∀ (e : NonPostedEntry) (s : State),
    let answered (st : Status) (t : State) : State :=
      appendCompletion { agent := e.agent, tag := e.tag, status := st, data := [], words := [] } t
    let holds (p : Port) := ∃ arrival expiry, peek s.locks p = .held e.agent arrival expiry
    let claims (p : Port) := ∃ arrival slot, peek s.locks p = .claimed e.agent arrival slot
    let broken := s.broken.getLsbD e.agent.val = true
    (∀ p, holds p → (∀ q, q < p → ¬ holds q) → takeRelease e s = openLock p (answered .done s)) ∧
    ((∀ p, ¬ holds p) →
      (broken → takeRelease e s = answered .broken { s with broken := s.broken &&& ~~~ BitVec.twoPow 8 e.agent.val }) ∧
      (¬ broken → (∃ p, claims p) →
        takeRelease e s =
          answered .misuse (storeRecord (.exclusiveMisuse e.agent e.tag .exclusiveRelease .notHeld none) s)) ∧
      (¬ broken → (∀ p, ¬ claims p) →
        takeRelease e s =
          answered .misuse (storeRecord (.exclusiveMisuse e.agent e.tag .exclusiveRelease .noLock none) s)))) ∧
  (∀ (p : Port) (s : State),
    openLock p s = processOrder (openLock p) p (peek s.waiting p) { s with locks := poke s.locks p .opened }) ∧
  ∀ (reopen : State → State) (p : Port) (s : State),
    processOrder reopen p [] s = s ∧
    ∀ (i : SlotId) (rest : List SlotId),
      (slotUse s i = none → processOrder reopen p (i :: rest) s = processOrder reopen p rest s) ∧
      ∀ u, slotUse s i = some u →
        let outOfOrder (j : SlotId) (t : State) : State :=
          { t with waiting := poke t.waiting p ((peek t.waiting p).filter (fun k => k ≠ j)) }
        let claims := u.kind = .exclusiveRead ∧ portInService p s = true
        (¬ claims → processOrder reopen p (i :: rest) s = processOrder reopen p rest (meetFence i (outOfOrder i s))) ∧
        (claims →
          let claimed := meetFence i (claimLock p i u (outOfOrder i s))
          (slotUse claimed i = none → processOrder reopen p (i :: rest) s = reopen claimed) ∧
          (slotUse claimed i ≠ none →
            processOrder reopen p (i :: rest) s =
              (rest.filter (fun j => decide ((slotUse claimed j).map SlotUse.agent = some u.agent))).foldl
                (fun t j => meetFence j (outOfOrder j t)) claimed))

/-! ## Slots -/

/-- An allocation gives the lowest-numbered FREE slot, advances its epoch, fills its record, starts the completion timer, raises
the generation's count and withdraws the buffers of a write's block; the slot then takes its first state (R57, R9). -/
def Obligations.AllocationGivesTheLowestFreeSlot : Prop :=
  ∀ (e : NonPostedEntry) (k : SlotKind) (a : Addr) (n : Nat) (data : List Byte) (r : DecodeRecord) (i : SlotId) (s : State),
    slotUse s i = none → (∀ j, j < i → slotUse s j ≠ none) →
    let u : SlotUse :=
      { state := .ready, agent := e.agent, tag := e.tag, kind := k, arrival := e.arrival, generation := r.generation,
        port := r.port, address := r.address, length := r.length, cls := r.cls, domain := r.domain,
        prefetchable := r.prefetchable, writeData := data,
        received := if k = .read ∨ k = .exclusiveRead then List.replicate r.length none else [],
        fillLink := none, mute := false, expiry := s.bridgeTime + s.timeout.setWidth 32 * 16,
        timeoutAtAllocation := s.timeout, exited := false }
    let given : State :=
      { s with
        slots := poke s.slots i { epoch := (peek s.slots i).epoch + 1, use := some u }
        counts := poke s.counts (genIndex r.generation) (peek s.counts (genIndex r.generation) + 1) }
    takeAccess e k a n data (.work r) s =
      firstState i u
        (if k = .nonPostedWrite ∨ k = .exclusiveWrite then withdrawBlock { port := r.port, block := blockOf r.address } given
         else given)

/-- The first state of a slot, and the fence (R58, R78, R79, R80): LOCK_WAIT in the waiting order under another agent's lock; a
claim of an Open lock by an exclusive read; FENCE_WAIT in the fence-waiting order; else the ready point. A claim makes the lock
Claimed, and every slot of the port that belongs to another agent, is later than the claim and is in FENCE_WAIT or READY leaves its
list for LOCK_WAIT, at its arrival-number position in the waiting order; nothing else changes (R59, R112). The arrival-number position
of a slot in a list is before the first slot that R26 makes later than it, and the others keep their order; several slots take theirs
one after another (R62, R82, R110). With numbers 2^31 or more apart in the list this place is the model's choice (log 15): the rules
then give no order of the list, and a slot exactly 2^31 numbers from another is neither earlier nor later than it. -/
def Obligations.FirstStateFollowsTheCases : Prop :=
  (∀ (i : SlotId) (u : SlotUse) (s : State), slotUse s i = some u →
    let lock := peek s.locks u.port
    let covered :=
      ∃ owner claim, ((∃ slot, lock = .claimed owner claim slot) ∨ ∃ expiry, lock = .held owner claim expiry) ∧
        owner ≠ u.agent ∧ (0 < (u.arrival - claim).toInt ∨ u.kind = .exclusiveRead)
    (covered →
      firstState i u s =
        { s with
          slots := poke s.slots i { epoch := (peek s.slots i).epoch, use := some { u with state := .lockWait } }
          waiting := poke s.waiting u.port
            (insertByArrival (arrivalOf s) i (peek s.waiting u.port)) }) ∧
    (¬ covered → u.kind = .exclusiveRead → lock = .opened →
      firstState i u s = meetFence i (claimLock u.port i u s)) ∧
    (¬ covered → u.kind ≠ .exclusiveRead ∨ lock ≠ .opened → firstState i u s = meetFence i s) ∧
    let fenced := u.cls = .strict ∨ u.kind = .exclusiveRead ∨ u.kind = .exclusiveWrite
    let waits :=
      (∃ e ∈ s.postedIntake, 0 < (u.arrival - e.arrival).toInt) ∨
        ∃ p, ∃ e ∈ (peek s.pwqs p).entries, e.domain = u.domain ∧ 0 < (u.arrival - e.arrival).toInt
    (fenced → waits →
      meetFence i s =
        { s with
          slots := poke s.slots i { epoch := (peek s.slots i).epoch, use := some { u with state := .fenceWait } }
          fenceOrder := insertByArrival (arrivalOf s) i s.fenceOrder }) ∧
    (¬ (fenced ∧ waits) → meetFence i s = readyPoint i s)) ∧
  (∀ (number : SlotId → Arrival) (i : SlotId) (others list : List SlotId),
    let notLater (j : SlotId) : Bool := decide ((number j - number i).toInt ≤ 0)
    insertByArrival number i list = list.takeWhile notLater ++ i :: list.dropWhile notLater ∧
      mergeByArrival number [] list = list ∧
      mergeByArrival number (i :: others) list = mergeByArrival number others (insertByArrival number i list)) ∧
  (∀ (i : SlotId) (u : SlotUse) (s : State), slotUse s i = some u → arrivalOf s i = u.arrival) ∧
  ∀ (p : Port) (i : SlotId) (u : SlotUse) (s : State),
    let movesFrom (st : SlotState) (j : SlotId) : Bool :=
      match slotUse s j with
      | some w => decide (w.port = p ∧ w.agent ≠ u.agent ∧ 0 < (w.arrival - u.arrival).toInt ∧ w.state = st)
      | none => false
    let moves (j : SlotId) : Bool := movesFrom .fenceWait j || movesFrom .ready j
    claimLock p i u s =
      { s with
        locks := poke s.locks p (.claimed u.agent u.arrival i)
        slots := Vector.ofFn (fun j : SlotId =>
          if moves j then
            { epoch := (peek s.slots j).epoch, use := (slotUse s j).map (fun w => { w with state := .lockWait }) }
          else peek s.slots j)
        waiting := poke s.waiting p
          (mergeByArrival (arrivalOf s) ((List.finRange 64).filter moves) (peek s.waiting p))
        fenceOrder := s.fenceOrder.filter (fun j => !movesFrom .fenceWait j)
        dispatch := poke s.dispatch p ((peek s.dispatch p).filter (fun j => !movesFrom .ready j)) }

/-- The cases of R60 at the ready point (R60, R61, R95, R97, R98, R99). `enterReady` places a slot on its port's dispatch list; a
slot that waited through an exit of its port is answered as in case 1 (log 12). The buffer found is one whose key is the slot's port
and block, VALID or FILLING (R93); the buffer obtained is the lowest-numbered FREE one, else the oldest of the LRU list, and none is
while the port's posted write queue holds an entry in the block (R95). -/
def Obligations.ReadyPointFollowsTheCases : Prop :=
  (∀ (key : BufferKey) (s : State),
    let valid (b : BufferId) := ∃ block, peek s.buffers b = .valid key block
    let filling (b : BufferId) := ∃ l fs, peek s.buffers b = .filling key l fs
    (∀ b block, findValid key s = some (b, block) ↔ peek s.buffers b = .valid key block ∧ ∀ c, c < b → ¬ valid c) ∧
    (findValid key s = none ↔ ∀ b, ¬ valid b) ∧
    (∀ b, findFilling key s = some b ↔ filling b ∧ ∀ c, c < b → ¬ filling c) ∧
    (findFilling key s = none ↔ ∀ b, ¬ filling b) ∧
    (∀ b, peek s.buffers b = .free → (∀ c, c < b → peek s.buffers c ≠ .free) → obtainable s = some b) ∧
    ((∀ b, peek s.buffers b ≠ .free) → obtainable s = s.lru.head?) ∧
    (blockQueued key s = true ↔ ∃ e ∈ (peek s.pwqs key.port).entries, blockOf e.address = key.block)) ∧
  ∀ (i : SlotId) (u : SlotUse) (s : State), slotUse s i = some u →
    let key : BufferKey := { port := u.port, block := blockOf u.address }
    let buffered := u.kind = .read ∧ u.prefetchable = true
    let leads := ∃ b, u.fillLink = some (.leader b)
    (portInService u.port s = false ∨ u.exited = true → readyPoint i s = failSlot i .portLost s) ∧
    (portInService u.port s = true → u.exited = false →
      (leads ∨ ¬ buffered → readyPoint i s = enterReady i s) ∧
      (¬ leads → buffered →
        (∀ b block, findValid key s = some (b, block) →
          readyPoint i s =
            answerSlot i .done ((block.drop (u.address.toNat % 256)).take u.length)
              { s with lru := s.lru.filter (fun c => c ≠ b) ++ [b] }) ∧
        (findValid key s = none →
          (∀ b l fs, findFilling key s = some b → peek s.buffers b = .filling key l fs →
            readyPoint i s =
              { s with
                slots := poke s.slots i
                  { epoch := (peek s.slots i).epoch
                    use := some { u with state := .fillWait, fillLink := some (.follower b) } }
                buffers := poke s.buffers b (.filling key l (fs ++ [i])) }) ∧
          (findFilling key s = none →
            (blockQueued key s = true ∨ obtainable s = none → readyPoint i s = enterReady i s) ∧
            (∀ b, blockQueued key s = false → obtainable s = some b →
              readyPoint i s =
                enterReady i
                  { s with
                    slots := poke s.slots i
                      { epoch := (peek s.slots i).epoch
                        use := some
                          { u with fillLink := some (.leader b), received := List.replicate 256 none } }
                    buffers := poke s.buffers b (.filling key i [])
                    lru := s.lru.filter (fun c => c ≠ b) }))))) ∧
    enterReady i s =
      { s with
        slots := poke s.slots i { epoch := (peek s.slots i).epoch, use := some { u with state := .ready } }
        dispatch := poke s.dispatch u.port (insertByArrival (arrivalOf s) i (peek s.dispatch u.port)) }

/-! ## Sends -/

/-- POSTED_WRITE_SEND: the oldest Queued entry is sent when the port is Active, holds a posted credit, its lock does not hold the
entry, and the non-posted lane does not offer or was the last winner; otherwise nothing changes (R44, R45, R46, R132; log 2). -/
def Obligations.PostedLaneSendsItsOldestEntry : Prop :=
  ∀ (p : Port) (s : State),
    let r := peek s.ports p
    let q := peek s.pwqs p
    let heldBack (e : QueueEntry) :=
      ∃ owner claim,
        ((∃ slot, peek s.locks p = .claimed owner claim slot) ∨ ∃ expiry, peek s.locks p = .held owner claim expiry) ∧
          0 < (e.arrival - claim).toInt
    let rivalOffers := 0 < r.nonPostedCredit ∧ peek s.dispatch p ≠ []
    (∀ (older younger : List QueueEntry) (e : QueueEntry),
      q.entries = older ++ e :: younger → (∀ x ∈ older, x.sent ≠ none) → e.sent = none →
      (r.state = .active → 0 < r.postedCredit → ¬ heldBack e → (¬ rivalOffers ∨ r.lastWinner = .nonPosted) →
        exec (.postedWriteSend p) s =
          .next
            { s with
              pwqs := poke s.pwqs p
                { entries := older ++ { e with sent := some q.nextSeq } :: younger, nextSeq := q.nextSeq + 1 }
              ports := poke s.ports p { r with postedCredit := r.postedCredit - 1, lastWinner := .posted }
              downstreamLinks := poke s.downstreamLinks p
                (peek s.downstreamLinks p ++ [.postedWrite q.nextSeq e.address e.length e.data]) }) ∧
      (r.state ≠ .active ∨ r.postedCredit = 0 ∨ heldBack e ∨ (rivalOffers ∧ r.lastWinner = .posted) →
        exec (.postedWriteSend p) s = .next s)) ∧
    ((∀ x ∈ q.entries, x.sent ≠ none) → exec (.postedWriteSend p) s = .next s)

/-- NON_POSTED_SEND: the oldest slot of the dispatch list is sent when the port is Active, holds a non-posted credit, and the
posted lane does not offer or was the last winner: a read of its range, of its whole block for a leader, or its write
(R61, R63, R64, R132). The posted lane offers while the port is Active and holds a posted credit, and its oldest Queued entry is not
held by the lock (R44, R46). A lane that is not granted, and an empty dispatch list, change nothing (log 2). -/
def Obligations.NonPostedLaneSendsItsOldestSlot : Prop :=
  (∀ (p : Port) (s : State), peek s.dispatch p = [] → exec (.nonPostedSend p) s = .next s) ∧
  ∀ (p : Port) (i : SlotId) (rest : List SlotId) (u : SlotUse) (s : State),
    peek s.dispatch p = i :: rest → i ∉ rest → slotUse s i = some u →
    let r := peek s.ports p
    let tag : BitVec 8 := BitVec.ofNat 8 (i.val * 4 + (peek s.slots i).epoch.toNat)
    let heldBack (e : QueueEntry) :=
      ∃ owner claim,
        ((∃ slot, peek s.locks p = .claimed owner claim slot) ∨ ∃ expiry, peek s.locks p = .held owner claim expiry) ∧
          0 < (e.arrival - claim).toInt
    let rivalOffers :=
      0 < r.postedCredit ∧ ∃ older e younger, (peek s.pwqs p).entries = older ++ e :: younger ∧
        (∀ x ∈ older, x.sent ≠ none) ∧ e.sent = none ∧ ¬ heldBack e
    (r.state = .active → 0 < r.nonPostedCredit → ¬ rivalOffers ∨ r.lastWinner = .posted →
      exec (.nonPostedSend p) s =
        .next
          { s with
            dispatch := poke s.dispatch p rest
            slots := poke s.slots i { epoch := (peek s.slots i).epoch, use := some { u with state := .sent } }
            ports := poke s.ports p { r with nonPostedCredit := r.nonPostedCredit - 1, lastWinner := .nonPosted }
            downstreamLinks := poke s.downstreamLinks p
              (peek s.downstreamLinks p ++
                [match u.kind with
                 | .read =>
                   match u.fillLink with
                   | some (.leader _) => .read tag (blockOf u.address) 256
                   | _ => .read tag u.address u.length
                 | .exclusiveRead => .read tag u.address u.length
                 | .nonPostedWrite => .nonPostedWrite tag u.address u.length u.writeData
                 | .exclusiveWrite => .nonPostedWrite tag u.address u.length u.writeData]) }) ∧
    (r.state ≠ .active ∨ r.nonPostedCredit = 0 ∨ (rivalOffers ∧ r.lastWinner = .nonPosted) →
      exec (.nonPostedSend p) s = .next s)

/-! ## Messages from the targets -/

/-- READY_MESSAGE in each state of its port: to Active with the grants carried, a failure with "bad Ready" or "unexpected
Ready", or discarded (R128). -/
def Obligations.ReadyMessageOpensTheLanes : Prop :=
  ∀ (p : Port) (posted nonPosted : BitVec 6) (s : State),
    let r := peek s.ports p
    (r.state = .waiting → 1 ≤ posted.toNat → posted.toNat ≤ 16 → 1 ≤ nonPosted.toNat → nonPosted.toNat ≤ 32 →
      exec (.readyMessage p posted nonPosted) s =
        .next
          { s with
            ports := poke s.ports p
              { r with
                state := .active, postedGrant := posted.toNat, postedCredit := posted.toNat,
                nonPostedGrant := nonPosted.toNat, nonPostedCredit := nonPosted.toNat } }) ∧
    (r.state = .waiting → posted.toNat = 0 ∨ 16 < posted.toNat ∨ nonPosted.toNat = 0 ∨ 32 < nonPosted.toNat →
      exec (.readyMessage p posted nonPosted) s = .next (raiseOnFirstRecord s (failPort p .badReady none s))) ∧
    (r.state = .active →
      exec (.readyMessage p posted nonPosted) s = .next (raiseOnFirstRecord s (failPort p .unexpectedReady none s))) ∧
    (r.state = .disabled ∨ r.state = .failed → exec (.readyMessage p posted nonPosted) s = .next s)

/-- CREDIT_RETURN from an Active port adds its count to the lane's credit, and fails the port with "bad credit return" if the count
is 0 or takes the credit above its grant (R131). -/
def Obligations.CreditReturnStaysWithinTheGrant : Prop :=
  ∀ (p : Port) (count : BitVec 6) (s : State), (peek s.ports p).state = .active →
    let r := peek s.ports p
    (1 ≤ count.toNat → r.postedCredit + count.toNat ≤ r.postedGrant →
      exec (.creditReturn p .posted count) s =
        .next { s with ports := poke s.ports p { r with postedCredit := r.postedCredit + count.toNat } }) ∧
    (count.toNat = 0 ∨ r.postedGrant < r.postedCredit + count.toNat →
      exec (.creditReturn p .posted count) s = .next (raiseOnFirstRecord s (failPort p .badCreditReturn none s))) ∧
    (1 ≤ count.toNat → r.nonPostedCredit + count.toNat ≤ r.nonPostedGrant →
      exec (.creditReturn p .nonPosted count) s =
        .next { s with ports := poke s.ports p { r with nonPostedCredit := r.nonPostedCredit + count.toNat } }) ∧
    (count.toNat = 0 ∨ r.nonPostedGrant < r.nonPostedCredit + count.toNat →
      exec (.creditReturn p .nonPosted count) s = .next (raiseOnFirstRecord s (failPort p .badCreditReturn none s)))

/-- RECEIPT: if the oldest Sent entry of an Active port's queue has the number named, it leaves the queue and is retired: its
generation's count falls by one, the posted intake's head is looked up and the fences are tested. Any other number, or no Sent
entry, fails the port with "bad receipt". A port that is not Active discards it (R48, R49, R83). -/
def Obligations.ReceiptRetiresTheOldestSentEntry : Prop :=
  ∀ (p : Port) (seq : WriteSeq) (s : State),
    let q := peek s.pwqs p
    ((peek s.ports p).state = .active →
      (∀ (older younger : List QueueEntry) (e : QueueEntry),
        q.entries = older ++ e :: younger → (∀ x ∈ older, x.sent = none) → e.sent = some seq →
        exec (.receipt p seq) s =
          .next (raiseOnFirstRecord s
            (testFences [] (lookUpHead
              (countDown e.generation { s with pwqs := poke s.pwqs p { q with entries := older ++ younger } }))))) ∧
      ((∀ e, q.entries.find? (fun x => x.sent.isSome) = some e → e.sent ≠ some seq) →
        exec (.receipt p seq) s = .next (raiseOnFirstRecord s (failPort p .badReceipt none s)))) ∧
    ((peek s.ports p).state ≠ .active → exec (.receipt p seq) s = .next s)

/-- Every message but Ready that reaches a port that is not Active is discarded, and a link fault at a port out of service is
ignored (R129, R135). -/
def Obligations.MessagesOfAnInactivePortAreDiscarded : Prop :=
  ∀ (p : Port) (s : State),
    ((peek s.ports p).state ≠ .active →
      (∀ lane count, exec (.creditReturn p lane count) s = .next s) ∧ (∀ seq, exec (.receipt p seq) s = .next s) ∧
      (∀ tag status offset count data, exec (.completionPiece p tag status offset count data) s = .next s) ∧
      (∀ vector, exec (.interruptMessage p vector) s = .next s) ∧ exec (.malformedMessage p) s = .next s) ∧
    ((peek s.ports p).state = .disabled ∨ (peek s.ports p).state = .failed → exec (.portLinkFault p) s = .next s)

/-- INTERRUPT_MESSAGE from an Active port raises a vector from 1 to 63; any other vector makes a BadInterrupt record with the value
as carried, and the port stays as it is. A port that is not Active discards it without a record (R139). -/
def Obligations.InterruptMessageRaisesItsVector : Prop :=
  ∀ (p : Port) (s : State),
    ((peek s.ports p).state = .active →
      (∀ v : VectorId, v ≠ 0 → exec (.interruptMessage p (BitVec.ofNat 7 v.val)) s = .next (raiseVector v s)) ∧
      ∀ vector : BitVec 7, vector = 0 ∨ 64 ≤ vector.toNat →
        exec (.interruptMessage p vector) s = .next (raiseOnFirstRecord s (storeRecord (.badInterrupt p vector) s))) ∧
    ((peek s.ports p).state ≠ .active → ∀ vector, exec (.interruptMessage p vector) s = .next s)

/-- A malformed message of an Active port and a link fault of a port in service fail the port: it is Failed with credits and grants
0 and the cause, its PortFault record comes first, its queue is empty, its lock Open, no buffer of it VALID, none of its slots
READY, SENT, ASSEMBLING or ORPHANED, and no other port's record changes (R74, R106, R121, R135, R136, R138, R186). No other port's
lock changes but one that names a claiming read which the exit's fence test may answer PortLost (R60, R113; log 12).
A failure is the port's new record, the PortFault record and the port exit. A port exit, of a failure or a disable, is the steps of
R138, each on what the step before left. Every entry of the queue is discarded, each lowering its generation's count, and one
PostedDiscarded record tells how many there were and why (R51, R52). The port's VALID buffers become FREE (R106). A Claimed or Held
lock is broken: it is Open, the owner of a Held one gets its broken flag, one ExclusiveBroken record is made, and the waiting order is
emptied, a slot of it entering FENCE_WAIT if its fence holds it (R120, R121). The port's READY, SENT and ASSEMBLING slots are answered
PortLost in arrival order, each leader's followers right after it, and then its ORPHANED slots are freed (R74, R106; their order is
log 18). The heads of the posted intake that can leave do so, and the fence-waiting order is tested, the slots released with the lock
taking their turns among those it releases (R83, R88). The mark `exited` is log 12. -/
def Obligations.PortFailureEndsThePortsWork : Prop :=
  (∀ (p : Port) (s : State),
    let failedWith (cause : FaultCause) (t : State) : Prop :=
      peek t.ports p =
          { state := .failed, postedCredit := 0, nonPostedCredit := 0, postedGrant := 0, nonPostedGrant := 0,
            lastWinner := (peek s.ports p).lastWinner, lastFault := some cause } ∧
        (∀ q, q ≠ p → peek t.ports q = peek s.ports q) ∧
        (s.records.length < 32 →
          t.records.take (s.records.length + 1) =
            s.records ++ [{ time := s.bridgeTime, body := .portFault p (peek s.ports p).state cause none }]) ∧
        (peek t.pwqs p).entries = [] ∧ peek t.locks p = .opened ∧
        (∀ q, q ≠ p →
          (∀ owner claim i u, peek s.locks q = .claimed owner claim i → slotUse s i = some u →
            u.exited = false ∧ portInService u.port s = true) →
          peek t.locks q = peek s.locks q) ∧
        (∀ b k block, peek t.buffers b = .valid k block → k.port ≠ p) ∧
        (∀ i u, slotUse t i = some u → u.port = p → u.state = .lockWait ∨ u.state = .fenceWait ∨ u.state = .fillWait) ∧
        t.arrivalCounter = s.arrivalCounter ∧ t.nonPostedIntake = s.nonPostedIntake ∧
        t.managementIntake = s.managementIntake ∧ t.current = s.current ∧ t.generation = s.generation ∧
        t.activeBank = s.activeBank ∧ t.downstreamLinks = s.downstreamLinks ∧ t.bridgeTime = s.bridgeTime
    ((peek s.ports p).state = .active → ∃ t, exec (.malformedMessage p) s = .next t ∧ failedWith .malformedMessage t) ∧
    ((peek s.ports p).state = .active ∨ (peek s.ports p).state = .waiting →
      ∃ t, exec (.portLinkFault p) s = .next t ∧ failedWith .linkFault t)) ∧
  (∀ (p : Port) (cause : FaultCause) (slot : Option SlotId) (s : State),
    failPort p cause slot s =
      portExit p { discard := .failed, lock := .portFailed }
        (storeRecord (.portFault p (peek s.ports p).state cause slot)
          { s with
            ports := poke s.ports p
              { state := .failed, postedCredit := 0, nonPostedCredit := 0, postedGrant := 0, nonPostedGrant := 0,
                lastWinner := (peek s.ports p).lastWinner, lastFault := some cause } })) ∧
  ∀ (p : Port) (causes : ExitCauses) (s : State),
    let queue := (peek s.pwqs p).entries
    let emptied : State :=
      queue.foldl (fun t e => countDown e.generation t) { s with pwqs := poke s.pwqs p { peek s.pwqs p with entries := [] } }
    let discarded : State :=
      if queue = [] then emptied else storeRecord (.postedDiscarded p queue.length causes.discard) emptied
    let freed : State :=
      { discarded with
        buffers := s.buffers.map (fun b =>
          match b with
          | .valid k block => if k.port = p then .free else .valid k block
          | .free => .free
          | .filling k l fs => .filling k l fs
          | .stale k l fs => .stale k l fs)
        lru := s.lru.filter (fun b =>
          match peek s.buffers b with
          | .valid k _ => decide (k.port ≠ p)
          | _ => false)
        slots := s.slots.map (fun x =>
          { x with
            use := x.use.map (fun u =>
              if u.port = p ∧ (u.state = .lockWait ∨ u.state = .fenceWait) then { u with exited := true } else u) }) }
    let order := if peek s.locks p = .opened then [] else peek s.waiting p
    let broken : State :=
      match peek s.locks p with
      | .opened => freed
      | .claimed owner _ _ =>
        storeRecord (.exclusiveBroken p owner .claimed causes.lock)
          { freed with locks := poke s.locks p .opened, waiting := poke s.waiting p [] }
      | .held owner _ _ =>
        storeRecord (.exclusiveBroken p owner .held causes.lock)
          { freed with
            locks := poke s.locks p .opened, waiting := poke s.waiting p []
            broken := s.broken ||| BitVec.twoPow 8 owner.val }
    let fenceHolds (u : SlotUse) (t : State) : Bool :=
      (decide (u.cls = .strict ∨ u.kind = .exclusiveRead ∨ u.kind = .exclusiveWrite)) &&
        (t.postedIntake.any (fun e => decide (0 < (u.arrival - e.arrival).toInt)) ||
          (List.finRange 4).any (fun q => (peek t.pwqs q).entries.any (fun e =>
            decide (e.domain = u.domain ∧ 0 < (u.arrival - e.arrival).toInt))))
    let fenced : State :=
      order.foldl (fun t i =>
        match slotUse t i with
        | none => t
        | some u =>
          if fenceHolds u t = true then
            { t with
              slots := poke t.slots i { epoch := (peek t.slots i).epoch, use := some { u with state := .fenceWait } }
              fenceOrder := insertByArrival (arrivalOf t) i t.fenceOrder }
          else t) broken
    let livesIn (states : List SlotState) (t : State) (i : SlotId) : Bool :=
      match slotUse t i with
      | some u => decide (u.port = p ∧ u.state ∈ states)
      | none => false
    let answered : State :=
      (mergeByArrival (arrivalOf fenced) ((List.finRange 64).filter (livesIn [.ready, .sent, .assembling] fenced)) []).foldl
        (fun t i =>
          match slotUse t i with
          | none => t
          | some u => failSlot i .portLost (leaveLists i u t)) fenced
    let ended : State :=
      ((List.finRange 64).filter (livesIn [.orphaned] answered)).foldl (fun t i => freeSlot i t) answered
    portExit p causes s = testFences (order.filter (fun i => decide (i ∉ fenced.fenceOrder))) (lookUpHead ended)

/-- A Good piece for a SENT or ASSEMBLING read: its bytes join the data area, the slot is ASSEMBLING until its range is
complete, and then answered Done; a piece of count 0, past the range, over received bytes or of the wrong size fails the port with
"bad piece" (R65, R66, R69, R113). When a leader's block is complete its followers are answered Done in attach order, each with its
own bytes of the block; a FILLING buffer then becomes VALID with the block, at the newest end of the LRU list, and a STALE one FREE
(R100; that the leader's slot becomes FREE after its followers is log 13). -/
def Obligations.GoodPiecesAssembleARead : Prop :=
  (∀ (p : Port) (tag : BitVec 8) (offset : BitVec 8) (count : BitVec 9) (data : List Byte) (u : SlotUse) (s : State),
    (peek s.ports p).state = .active →
    let i : SlotId := tagSlot tag
    slotUse s i = some u → u.state = .sent ∨ u.state = .assembling → (peek s.slots i).epoch = tagEpoch tag → u.port = p →
    u.kind = .read ∨ u.kind = .exclusiveRead →
    let overlaps := ∃ k, k < count.toNat ∧ ∃ x, u.received[offset.toNat + k]? = some (some x)
    let bad := count.toNat = 0 ∨ u.received.length < offset.toNat + count.toNat ∨ overlaps ∨ data.length ≠ count.toNat
    let area := u.received.take offset.toNat ++ data.map some ++ u.received.drop (offset.toNat + data.length)
    let bytes : List Byte := area.map (fun x => x.getD 0)
    let grown : State :=
      { s with
        slots := poke s.slots i
          { epoch := (peek s.slots i).epoch, use := some { u with state := .assembling, received := area } } }
    (bad →
      exec (.completionPiece p tag .good offset count data) s =
        .next (raiseOnFirstRecord s (failPort p .badPiece (some i) s))) ∧
    (¬ bad → none ∈ area → exec (.completionPiece p tag .good offset count data) s = .next grown) ∧
    (¬ bad → none ∉ area →
      (∀ b, u.fillLink = some (.leader b) →
        exec (.completionPiece p tag .good offset count data) s =
          .next (freeSlot i (endFillDone b bytes
            (reply u .done ((bytes.drop (u.address.toNat % 256)).take u.length) grown)))) ∧
      (u.fillLink = none →
        exec (.completionPiece p tag .good offset count data) s =
          .next (lockActs i p .done (answerSlot i .done bytes grown))))) ∧
  ∀ (b : BufferId) (k : BufferKey) (l : SlotId) (followers : List SlotId) (block : List Byte) (s : State),
    let answered : State :=
      followers.foldl (fun t i =>
        match slotUse t i with
        | some u => answerSlot i .done ((block.drop (u.address.toNat % 256)).take u.length) t
        | none => t) s
    (peek s.buffers b = .filling k l followers →
      endFillDone b block s =
        { answered with
          buffers := poke s.buffers b (.valid k block)
          lru := s.lru.filter (fun c => c ≠ b) ++ [b] }) ∧
    (peek s.buffers b = .stale k l followers →
      endFillDone b block s = { answered with buffers := poke s.buffers b .free })

/-- A Good piece of count 0 without data answers a SENT write Done, and any other Good piece for it fails its port; a Fault piece
answers a SENT or ASSEMBLING slot TargetFault and ends the fill it leads; any piece frees an ORPHANED slot with a LateCompletion
record (R67, R68, R73). A fill that ends badly frees its buffer, and its followers are answered with the leader's status, in attach
order, after the leader (R101, R102, R106; log 13). The answer of the slot that a lock names as its claiming slot makes the lock Held
with the hold timer started, or, with a status other than Done, opens it; any other answer changes no lock (R113). -/
def Obligations.WriteFaultAndLatePieces : Prop :=
  (∀ (p : Port) (tag : BitVec 8) (offset : BitVec 8) (count : BitVec 9) (data : List Byte) (u : SlotUse) (s : State),
    (peek s.ports p).state = .active →
    let i : SlotId := tagSlot tag
    slotUse s i = some u → (peek s.slots i).epoch = tagEpoch tag → u.port = p →
    (u.state = .sent → u.kind = .nonPostedWrite ∨ u.kind = .exclusiveWrite →
      (count.toNat = 0 → data = [] →
        exec (.completionPiece p tag .good offset count data) s = .next (lockActs i p .done (answerSlot i .done [] s))) ∧
      (count.toNat ≠ 0 ∨ data ≠ [] →
        exec (.completionPiece p tag .good offset count data) s =
          .next (raiseOnFirstRecord s (failPort p .badPiece (some i) s)))) ∧
    (u.state = .sent ∨ u.state = .assembling →
      exec (.completionPiece p tag .fault offset count []) s =
        .next (lockActs i p .targetFault (failSlot i .targetFault s))) ∧
    (u.state = .orphaned →
      exec (.completionPiece p tag .fault offset count []) s =
          .next (raiseOnFirstRecord s (storeRecord (.lateCompletion p i .fault) (freeSlot i s))) ∧
        exec (.completionPiece p tag .good offset count data) s =
          .next (raiseOnFirstRecord s (storeRecord (.lateCompletion p i .good) (freeSlot i s))))) ∧
  (∀ (st : Status) (i : SlotId) (u : SlotUse) (s : State),
    let filled (w : SlotUse) : List Byte :=
      if w.kind = .read ∨ w.kind = .exclusiveRead then List.replicate w.length 0xFF else []
    (slotUse s i = some u → failSlot i st s = endLedFill u st (answerSlot i st (filled u) s)) ∧
    ((∀ b, u.fillLink ≠ some (.leader b)) → endLedFill u st s = s) ∧
    ∀ (b : BufferId) (k : BufferKey) (l : SlotId) (followers : List SlotId), u.fillLink = some (.leader b) →
      peek s.buffers b = .filling k l followers ∨ peek s.buffers b = .stale k l followers →
      endLedFill u st s =
        followers.foldl (fun t j =>
          match slotUse t j with
          | some w => answerSlot j st (filled w) t
          | none => t) { s with buffers := poke s.buffers b .free }) ∧
  ∀ (i : SlotId) (p : Port) (st : Status) (s : State),
    (∀ owner arrival, peek s.locks p = .claimed owner arrival i →
      (st = .done →
        lockActs i p st s =
          { s with locks := poke s.locks p (.held owner arrival (s.bridgeTime + s.holdLimit.setWidth 32 * 16)) }) ∧
      (st ≠ .done → lockActs i p st s = openLock p s)) ∧
    ((∀ owner arrival, peek s.locks p ≠ .claimed owner arrival i) → lockActs i p st s = s)

/-- A piece that matches no slot changes none, and makes one StaleCompletion record with the first cause that holds (R65, R179).
The tag of a piece names its slot in bits 7:2 and its epoch in bits 1:0 (R55, 12.2). -/
def Obligations.StalePiecesMakeARecord : Prop :=
  (∀ tag : BitVec 8, (tagSlot tag).val = tag.toNat / 4 ∧ (tagEpoch tag).toNat = tag.toNat % 4) ∧
  ∀ (p : Port) (tag : BitVec 8) (status : PieceStatus) (offset : BitVec 8) (count : BitVec 9) (data : List Byte) (s : State),
    (peek s.ports p).state = .active → status = .good ∨ data = [] →
    let i : SlotId := tagSlot tag
    let stale (cause : StaleCause) : Prop :=
      exec (.completionPiece p tag status offset count data) s =
        .next (raiseOnFirstRecord s (storeRecord (.staleCompletion p i status cause) s))
    (slotUse s i = none → stale .slotFree) ∧
    ∀ u, slotUse s i = some u →
      let takes := u.state = .sent ∨ u.state = .assembling ∨ u.state = .orphaned
      (¬ takes → stale .takesNoPieces) ∧
      (takes → (peek s.slots i).epoch ≠ tagEpoch tag → stale .epochDiffers) ∧
      (takes → (peek s.slots i).epoch = tagEpoch tag → u.port ≠ p → stale .otherPort)

/-- The answer of a slot: the completion is appended and the identifier leaves the set unless the slot is muted, the slot is FREE
with its epoch kept, and its generation's count falls by one (R25, R55, R69). The decrease that brings the drained generation's count
to 0 ends the drain: the staged bank becomes a copy of the active one, and the commit's Done is appended and its identifier leaves
the set unless it is suppressed (R12, R17, R19). A FREE slot is neither answered nor freed. -/
def Obligations.AnsweredSlotIsFree : Prop :=
  (∀ (c : Completion) (s : State),
    appendCompletion c s = { s with egress := s.egress ++ [.completion c], ids := poke s.ids (idIndex c.agent c.tag) false }) ∧
  (∀ (u : SlotUse) (st : Status) (data : List Byte) (s : State),
    reply u st data s =
      if u.mute = true then s
      else appendCompletion { agent := u.agent, tag := u.tag, status := st, data, words := [] } s) ∧
  (∀ (i : SlotId) (st : Status) (data : List Byte) (s : State),
    (slotUse s i = none → freeSlot i s = s ∧ answerSlot i st data s = s) ∧
    ∀ u, slotUse s i = some u →
      freeSlot i s =
        countDown u.generation { s with slots := poke s.slots i { epoch := (peek s.slots i).epoch, use := none } } ∧
      answerSlot i st data s =
        countDown u.generation
          { s with
            slots := poke s.slots i { epoch := (peek s.slots i).epoch, use := none }
            egress := if u.mute = true then s.egress else
              s.egress ++ [.completion { agent := u.agent, tag := u.tag, status := st, data, words := [] }]
            ids := if u.mute = true then s.ids else poke s.ids (idIndex u.agent u.tag) false }) ∧
  ∀ (g : Generation) (s : State),
    let fallen : State := { s with counts := poke s.counts (genIndex g) (peek s.counts (genIndex g) - 1) }
    let ends (d : DrainRecord) := d.generation = g ∧ peek s.counts (genIndex g) ≤ 1
    ((∀ d, s.drain = some d → ¬ ends d) → countDown g s = fallen) ∧
    ∀ d, s.drain = some d → ends d →
      countDown g s =
        { fallen with
          drain := none
          bankA := match s.activeBank with | .a => s.bankA | .b => s.bankB
          bankB := match s.activeBank with | .a => s.bankA | .b => s.bankB
          egress := if d.suppressed = true then s.egress else
            s.egress ++ [.completion { agent := d.agent, tag := d.tag, status := .done, data := [], words := [] }]
          ids := if d.suppressed = true then s.ids else poke s.ids (idIndex d.agent d.tag) false }

/-! ## Timers and the bridge time -/

/-- COMPLETION_TIMER_EXPIRY of a due timer: a CompletionExpired record with the state, and the answer Expired; a SENT or ASSEMBLING
slot becomes ORPHANED for eight timeouts, a waiting one leaves its list and is FREE; the lock acts on its claiming read's answer
(R71, R72, R102, R103, R113; log 4). A slot in FENCE_WAIT that waited there through an exit of its port is answered PortLost (R88,
R137; log 21, log 12 for the mark `exited`). A timer that is not due, or an ORPHANED slot, changes nothing (log 2). -/
def Obligations.CompletionTimerAnswersExpired : Prop :=
  ∀ (i : SlotId) (s : State),
    (slotUse s i = none → exec (.completionTimerExpiry i) s = .next s) ∧
    (∀ u, slotUse s i = some u →
      (u.state = .orphaned ∨ (s.bridgeTime - u.expiry).toInt < 0 → exec (.completionTimerExpiry i) s = .next s) ∧
      (u.state ≠ .orphaned → 0 ≤ (s.bridgeTime - u.expiry).toInt →
        let recorded := storeRecord (.completionExpired u.agent u.tag u.port i u.state) s
        let filled := if u.kind = .read ∨ u.kind = .exclusiveRead then List.replicate u.length (0xFF : Byte) else []
        (u.state = .sent ∨ u.state = .assembling →
          let answered := reply u .expired filled recorded
          exec (.completionTimerExpiry i) s =
            .next (raiseOnFirstRecord s (lockActs i u.port .expired (endLedFill u .expired
              { answered with
                slots := poke s.slots i
                  { epoch := (peek s.slots i).epoch
                    use := some
                      { u with
                        state := .orphaned, received := [], writeData := [], fillLink := none,
                        expiry := s.bridgeTime + u.timeoutAtAllocation.setWidth 32 * 128 } } })))) ∧
        (u.state ≠ .sent → u.state ≠ .assembling →
          let status : Status := if u.state = .fenceWait ∧ u.exited = true then .portLost else .expired
          exec (.completionTimerExpiry i) s =
            .next (raiseOnFirstRecord s
              (lockActs i u.port status (failSlot i status (leaveLists i u recorded))))))) ∧
    ∀ u : SlotUse,
      let others (list : List SlotId) : List SlotId := list.filter (fun j => j ≠ i)
      (u.state = .lockWait → leaveLists i u s = { s with waiting := poke s.waiting u.port (others (peek s.waiting u.port)) }) ∧
      (u.state = .fenceWait → leaveLists i u s = { s with fenceOrder := others s.fenceOrder }) ∧
      (u.state = .ready → leaveLists i u s = { s with dispatch := poke s.dispatch u.port (others (peek s.dispatch u.port)) }) ∧
      (∀ b k l followers, u.state = .fillWait → u.fillLink = some (.follower b) →
        (peek s.buffers b = .filling k l followers →
          leaveLists i u s = { s with buffers := poke s.buffers b (.filling k l (others followers)) }) ∧
        (peek s.buffers b = .stale k l followers →
          leaveLists i u s = { s with buffers := poke s.buffers b (.stale k l (others followers)) })) ∧
      (u.state = .sent ∨ u.state = .assembling ∨ u.state = .orphaned → leaveLists i u s = s)

/-- ORPHAN_TIMER_EXPIRY of a due timer frees an ORPHANED slot with an OrphanExpired record. HOLD_TIMER_EXPIRY of a due timer
breaks the Held lock: it is Open, its owner's broken flag is set, an ExclusiveBroken record is made and the waiting order is
processed. Otherwise nothing changes (R73, R118, R119, R120; log 2, log 4). -/
def Obligations.OrphanAndHoldTimersExpire : Prop :=
  (∀ (i : SlotId) (s : State),
    (slotUse s i = none → exec (.orphanTimerExpiry i) s = .next s) ∧
    ∀ u, slotUse s i = some u →
      (u.state ≠ .orphaned ∨ (s.bridgeTime - u.expiry).toInt < 0 → exec (.orphanTimerExpiry i) s = .next s) ∧
      (u.state = .orphaned → 0 ≤ (s.bridgeTime - u.expiry).toInt →
        exec (.orphanTimerExpiry i) s =
          .next (raiseOnFirstRecord s (storeRecord (.orphanExpired u.port i) (freeSlot i s))))) ∧
  ∀ (p : Port) (s : State),
    ((∀ owner arrival expiry, peek s.locks p = .held owner arrival expiry → (s.bridgeTime - expiry).toInt < 0) →
      exec (.holdTimerExpiry p) s = .next s) ∧
    ∀ owner arrival expiry, peek s.locks p = .held owner arrival expiry → 0 ≤ (s.bridgeTime - expiry).toInt →
      exec (.holdTimerExpiry p) s =
        .next (raiseOnFirstRecord s
          (openLock p
            (storeRecord (.exclusiveBroken p owner .held .holdExpiry)
              { s with locks := poke s.locks p .opened, broken := s.broken ||| BitVec.twoPow 8 owner.val })))

/-- BRIDGE_TIME_ADVANCE adds one microsecond, from 2^32 - 1 to 0 (R182); EGRESS_TRANSMISSION takes the oldest packet of the egress
queue, and none from an empty one (R36; the link's record and the agents' credits are logs 10 and 11). -/
def Obligations.TimeAdvancesAndEgressIsInOrder : Prop :=
  (∀ s : State, exec .bridgeTimeAdvance s = .next { s with bridgeTime := s.bridgeTime + 1 }) ∧
  (∀ s : State, s.egress = [] → exec .egressTransmission s = .next s) ∧
  (∀ (x : EgressPacket) (rest : List EgressPacket) (s : State), s.egress = x :: rest →
    (∀ c, x ≠ .creditReturn c) →
    exec .egressTransmission s = .next { s with egress := rest, upstreamLink := s.upstreamLink ++ [x] }) ∧
  ∀ (c : CreditClass) (rest : List EgressPacket) (s : State), s.egress = .creditReturn c :: rest →
    exec .egressTransmission s =
      .next { s with egress := rest, upstreamLink := s.upstreamLink ++ [.creditReturn c],
                     agentCredits :=
                       match c with
                       | .posted => { s.agentCredits with posted := s.agentCredits.posted + 1 }
                       | .nonPosted => { s.agentCredits with nonPosted := s.agentCredits.nonPosted + 1 }
                       | .management => { s.agentCredits with management := s.agentCredits.management + 1 } }

/-! ## Interrupt steering -/

/-- A raise: an Idle entry becomes Pending and is steered, a Pending one is unchanged, an InService one sets its again flag
(R147). -/
def Obligations.RaiseFollowsTheEntryState : Prop :=
  ∀ (v : VectorId) (s : State),
    ((peek s.vectors v).state = .idle →
      raiseVector v s = steer v { s with vectors := poke s.vectors v { peek s.vectors v with state := .pending } }) ∧
    ((peek s.vectors v).state = .pending → raiseVector v s = s) ∧
    (∀ a, (peek s.vectors v).state = .inService a →
      raiseVector v s = { s with vectors := poke s.vectors v { peek s.vectors v with again := true } }) ∧
    (raiseVector v s).records = s.records ∧ (raiseVector v s).overflow = s.overflow

/-- A steer delivers a Pending, enabled entry that has an eligible agent: an interrupt is appended, the entry is InService to the
agent chosen with its again flag clear, the agent's count rises by one and the cursor moves to it. In every other case it changes
nothing (R144, R146). -/
def Obligations.SteerDeliversAnOwedInterrupt : Prop :=
  ∀ (v : VectorId) (s : State),
    let e := peek s.vectors v
    (∀ a, e.state = .pending → e.enabled = true → chooseAgent e s.agentMasks s.serviceCounts = some a →
      steer v s =
        { s with
          egress := s.egress ++ [.interrupt a v]
          vectors := poke s.vectors v { e with state := .inService a, again := false, cursor := a }
          serviceCounts := poke s.serviceCounts a (peek s.serviceCounts a + 1) }) ∧
    (e.state ≠ .pending ∨ e.enabled = false ∨ (∀ a, eligibleAgent e s.agentMasks a = false) → steer v s = s)

/-- The choice: the fixed agent; the first eligible agent upward from the cursor; the eligible agent with the lowest count, the
lowest-numbered of equals. None is chosen when none is eligible: an agent is eligible when the fixed agent is it, or the agent set
holds it, and its mask is clear (R144, R145). -/
def Obligations.ChoiceFollowsTheMode : Prop :=
  ∀ (e : VectorEntry) (masks : AgentSet) (busy : Vector Nat 8),
    let fits (a : Agent) : Prop := e.agents.getLsbD a.val = true ∧ masks.getLsbD a.val = false
    (∀ a, eligibleAgent e masks a = true ↔
      if e.mode = .fixed then a = e.fixedAgent ∧ masks.getLsbD a.val = false else fits a) ∧
    (e.mode = .fixed →
      chooseAgent e masks busy = if masks.getLsbD e.fixedAgent.val = true then none else some e.fixedAgent) ∧
    (e.mode = .rotate →
      (∀ a, chooseAgent e masks busy = some a ↔
        ∃ k : Fin 8, a = e.cursor + 1 + k ∧ fits a ∧ ∀ j, j < k → ¬ fits (e.cursor + 1 + j)) ∧
      (chooseAgent e masks busy = none ↔ ∀ a, ¬ fits a)) ∧
    (e.mode = .leastBusy →
      (∀ a, chooseAgent e masks busy = some a ↔
        fits a ∧ ∀ b, fits b → peek busy a < peek busy b ∨ (peek busy a = peek busy b ∧ a ≤ b)) ∧
      (chooseAgent e masks busy = none ↔ ∀ a, ¬ fits a))

/-- A fitting Service Done of a vector from 1 to 63: the agent's count falls by one, and the entry becomes Idle, or Pending and
steered if it was raised again (R149). -/
def Obligations.FittingServiceDoneEndsTheService : Prop :=
  ∀ (a : Agent) (v : VectorId) (s : State), v ≠ 0 → (peek s.vectors v).state = .inService a →
    let e := peek s.vectors v
    let ended (st : VectorState) : State :=
      { s with
        serviceCounts := poke s.serviceCounts a (peek s.serviceCounts a - 1)
        vectors := poke s.vectors v { e with state := st, again := false } }
    exec (.serviceDone (BitVec.ofNat 4 a.val) (BitVec.ofNat 7 v.val) [] []) s =
      .next (if e.again = true then steer v (ended .pending) else ended .idle)

/-- A fitting Service Done of vector 0 goes by the error record queue alone: Pending and steered if it holds a record, else Idle,
with the again flag cleared (R152). -/
def Obligations.VectorZeroServiceGoesByTheQueue : Prop :=
  ∀ (a : Agent) (s : State), (peek s.vectors 0).state = .inService a →
    let ended (st : VectorState) : State :=
      { s with
        serviceCounts := poke s.serviceCounts a (peek s.serviceCounts a - 1)
        vectors := poke s.vectors 0 { peek s.vectors 0 with state := st, again := false } }
    exec (.serviceDone (BitVec.ofNat 4 a.val) 0 [] []) s =
      .next (if s.records = [] then ended .idle else steer 0 (ended .pending))

/-- A Service Done that does not fit changes no entry, count, mask or cursor, and makes one ServiceMismatch record (R150). -/
def Obligations.MisfitServiceDoneMakesARecord : Prop :=
  ∀ (a : Agent) (v : VectorId) (s : State),
    let mismatch (cause : MismatchCause) : Prop :=
      exec (.serviceDone (BitVec.ofNat 4 a.val) (BitVec.ofNat 7 v.val) [] []) s =
        .next (raiseOnFirstRecord s (storeRecord (.serviceMismatch a v cause) s))
    ((peek s.vectors v).state = .idle → mismatch .idle) ∧ ((peek s.vectors v).state = .pending → mismatch .pending) ∧
      ∀ b, (peek s.vectors v).state = .inService b → b ≠ a → mismatch .otherAgent

/-! ## Management -/

/-- A write of each writable register by an agent of the management agent mask takes the value carried, is answered Done, and
changes no other setting; a mask naming no agent and a duration of 0 are answered Invalid and change nothing (R5, R70, R119, R156,
R168, R169, 12.5). -/
def Obligations.RegisterWritesTakeTheirValues : Prop :=
  ∀ (r : ManagementEntry) (w : Word) (s : State), s.current = some r → r.operation = 1 → r.words = [w] →
    hasAgent s.managementMask r.agent = true →
    let idle : State := { s with current := none }
    let answered (st : Status) (t : State) : Host.Outcome State Fault Refusal :=
      .next (appendCompletion { agent := r.agent, tag := r.tag, status := st, data := [], words := [] } t)
    (r.index = 1 →
      exec .writeManagementAgentMask s =
        if w.extractLsb' 0 8 = 0 then answered .invalid idle
        else answered .done { idle with managementMask := w.extractLsb' 0 8 }) ∧
    (r.index = 2 → exec .writeMissPolicy s = answered .done { idle with missRecords := w.getLsbD 0 }) ∧
    (r.index = 3 →
      exec .writeCompletionTimeout s =
        if w.extractLsb' 0 12 = 0 then answered .invalid idle
        else answered .done { idle with timeout := w.extractLsb' 0 12 }) ∧
    (r.index = 4 →
      exec .writeExclusiveHoldLimit s =
        if w.extractLsb' 0 12 = 0 then answered .invalid idle
        else answered .done { idle with holdLimit := w.extractLsb' 0 12 }) ∧
    (r.index = 5 →
      exec .writeAgentInterruptMasks s = answered .done (resteer { idle with agentMasks := w.extractLsb' 0 8 }))

/-- What is answered Invalid with nothing changed: an operation code that names no operation, from any agent; a write of a
read-only or unnamed register; a wrong number of operand words; a port or a PORT CONTROL code out of range, whichever of the three
rows ends such a request (R126, R163 rows 1 and 3, R168, R171; log 6). -/
def Obligations.InvalidRequestsChangeNothing : Prop :=
  ∀ (r : ManagementEntry) (s : State), s.current = some r →
    let invalid : Host.Outcome State Fault Refusal :=
      .next (appendCompletion { agent := r.agent, tag := r.tag, status := .invalid, data := [], words := [] }
        { s with current := none })
    (9 ≤ r.operation.toNat → exec .undefinedOperation s = invalid) ∧
    (r.operation = 1 → hasAgent s.managementMask r.agent = true →
      (r.index = 0 ∨ 6 ≤ r.index.toNat → exec .writeRegister s = invalid) ∧
      (r.words.length ≠ 1 →
        (r.index = 1 → exec .writeManagementAgentMask s = invalid) ∧ (r.index = 2 → exec .writeMissPolicy s = invalid) ∧
        (r.index = 3 → exec .writeCompletionTimeout s = invalid) ∧ (r.index = 4 → exec .writeExclusiveHoldLimit s = invalid) ∧
        (r.index = 5 → exec .writeAgentInterruptMasks s = invalid))) ∧
    (r.operation = 0 → r.index = 6 → r.words ≠ [] → exec .readErrorQueueStatus s = invalid) ∧
    (r.operation = 0 → r.index ≠ 6 → r.words ≠ [] ∨ 14 ≤ r.index.toNat → exec .readRegister s = invalid) ∧
    (r.operation = 7 → r.words ≠ [] → exec .readVector s = invalid) ∧
    (r.operation = 3 → r.words.length ≠ 1 → exec .readWindow s = invalid) ∧
    (hasAgent s.managementMask r.agent = true →
      (r.operation = 8 → r.words ≠ [] → exec .takeErrorRecord s = invalid) ∧
      (r.operation = 4 → r.words ≠ [] → exec .commitWindows s = invalid) ∧
      (r.operation = 6 → r.words.length ≠ 1 → exec .writeVector s = invalid) ∧
      (r.operation = 2 → r.words.length ≠ 4 → exec .stageWindow s = invalid) ∧
      (r.operation = 5 → 4 ≤ r.index.toNat →
        (r.words = [1] → exec .portControlEnable s = invalid) ∧ (r.words = [2] → exec .portControlDisable s = invalid) ∧
          (r.words = [3] → exec .portControlRestart s = invalid)) ∧
      (r.operation = 5 → r.words ≠ [1] → r.words ≠ [2] → r.words ≠ [3] →
        exec .portControlEnable s = invalid ∧ exec .portControlDisable s = invalid ∧ exec .portControlRestart s = invalid))

/-- An operation that is not a read, from an agent outside the management agent mask, is answered Refused with one
ManagementRefused record, and changes nothing else (R163 row 2, R164; which row ends a PORT CONTROL with an undefined code or a wrong
number of operand words is log 6). Bit n of a set of agents is agent n (12.5). -/
def Obligations.RequestsOutsideTheMaskAreRefused : Prop :=
  (∀ (m : AgentSet) (a : Agent), hasAgent m a = m.getLsbD a.val) ∧
  ∀ (r : ManagementEntry) (s : State), s.current = some r → hasAgent s.managementMask r.agent = false →
    let refused : Host.Outcome State Fault Refusal :=
      .next (appendCompletion { agent := r.agent, tag := r.tag, status := .refused, data := [], words := [] }
        (raiseOnFirstRecord s
          (storeRecord (.managementRefused r.agent r.tag r.operation r.index) { s with current := none })))
    (r.operation = 1 → r.index = 1 → exec .writeManagementAgentMask s = refused) ∧
    (r.operation = 1 → r.index = 2 → exec .writeMissPolicy s = refused) ∧
    (r.operation = 1 → r.index = 3 → exec .writeCompletionTimeout s = refused) ∧
    (r.operation = 1 → r.index = 4 → exec .writeExclusiveHoldLimit s = refused) ∧
    (r.operation = 1 → r.index = 5 → exec .writeAgentInterruptMasks s = refused) ∧
    (r.operation = 1 → r.index = 0 ∨ 6 ≤ r.index.toNat → exec .writeRegister s = refused) ∧
    (r.operation = 2 → exec .stageWindow s = refused) ∧ (r.operation = 4 → exec .commitWindows s = refused) ∧
    (r.operation = 5 → r.words = [1] → exec .portControlEnable s = refused) ∧
    (r.operation = 5 → r.words = [2] → exec .portControlDisable s = refused) ∧
    (r.operation = 5 → r.words = [3] → exec .portControlRestart s = refused) ∧
    (r.operation = 5 → r.words ≠ [1] → r.words ≠ [2] → r.words ≠ [3] →
      exec .portControlEnable s = refused ∧ exec .portControlDisable s = refused ∧ exec .portControlRestart s = refused) ∧
    (r.operation = 6 → exec .writeVector s = refused) ∧ (r.operation = 8 → exec .takeErrorRecord s = refused)

/-- A read of a register is answered Done, whatever its agent, with the register's words as the state stands, and changes nothing
but, for the error queue status, the overflow flag, which it clears (R167, R181, 12.5). -/
def Obligations.RegisterReadsReportTheState : Prop :=
  ∀ (r : ManagementEntry) (s : State), s.current = some r → r.operation = 0 → r.words = [] →
    let done (words : List Word) (t : State) : Host.Outcome State Fault Refusal :=
      .next (appendCompletion { agent := r.agent, tag := r.tag, status := .done, data := [], words } t)
    let reads (words : List Word) : Prop := exec .readRegister s = done words { s with current := none }
    let portView (p : Port) : Word :=
      let x := peek s.ports p
      let cause : BitVec 4 :=
        match x.lastFault with
        | none => 0
        | some .badReceipt => 1
        | some .badPiece => 2
        | some .badCreditReturn => 3
        | some .unexpectedReady => 4
        | some .malformedMessage => 5
        | some .linkFault => 6
        | some .badReady => 7
      0#4 ++ cause ++ BitVec.ofNat 6 x.nonPostedGrant ++
        BitVec.ofNat 6 x.nonPostedCredit ++ BitVec.ofNat 5 x.postedGrant ++ BitVec.ofNat 5 x.postedCredit ++
        (match x.state with | .disabled => 0#2 | .waiting => 1#2 | .active => 2#2 | .failed => 3#2)
    let occupancy (p : Port) : BitVec 8 :=
      let entries := (peek s.pwqs p).entries
      BitVec.ofNat 8 (entries.length * (entries.length + 1) / 2 + (entries.filter (fun e => decide (e.sent ≠ none))).length)
    let lockView (p : Port) : BitVec 5 :=
      match peek s.locks p with
      | .opened => 0#3 ++ 0#2
      | .claimed owner _ _ => BitVec.ofNat 3 owner.val ++ 1#2
      | .held owner _ _ => BitVec.ofNat 3 owner.val ++ 2#2
    (r.index = 0 → reads [0x024160D5]) ∧ (r.index = 1 → reads [s.managementMask.setWidth 32]) ∧
    (r.index = 2 → reads [if s.missRecords = true then 1 else 0]) ∧ (r.index = 3 → reads [s.timeout.setWidth 32]) ∧
    (r.index = 4 → reads [s.holdLimit.setWidth 32]) ∧ (r.index = 5 → reads [s.agentMasks.setWidth 32]) ∧
    (r.index = 6 →
      exec .readErrorQueueStatus s =
        done [BitVec.ofBool s.overflow ++ BitVec.ofNat 31 s.records.length] { s with current := none, overflow := false }) ∧
    (r.index = 7 → reads [portView 0, portView 1, portView 2, portView 3]) ∧
    (r.index = 8 → reads [occupancy 3 ++ occupancy 2 ++ occupancy 1 ++ occupancy 0]) ∧
    (r.index = 9 → reads [BitVec.ofNat 32 (allSlots.countP (fun i => (slotUse s i).isNone))]) ∧
    (r.index = 10 → reads [0#4 ++ s.broken ++ lockView 3 ++ lockView 2 ++ lockView 1 ++ lockView 0]) ∧
    (r.index = 11 → reads [0#23 ++ (if s.activeBank = .a then 0#1 else 1#1) ++ s.generation]) ∧
    (r.index = 12 → reads [if s.drain = none then 0 else 1]) ∧ (r.index = 13 → reads [s.bridgeTime])

/-- STAGE_WINDOW replaces an entry of the staged bank, or is answered Busy during a drain, or Invalid for an index, a target or a
range out of bounds; READ_WINDOW returns an entry of the bank named, from any agent (R14, R15, R170). -/
def Obligations.WindowsAreStagedAndReadBack : Prop :=
  ∀ (r : ManagementEntry) (s : State), s.current = some r →
    let answered (st : Status) (words : List Word) (t : State) : Host.Outcome State Fault Refusal :=
      .next (appendCompletion { agent := r.agent, tag := r.tag, status := st, data := [], words } t)
    let idle : State := { s with current := none }
    (∀ w0 w1 w2 w3 : Word, r.operation = 2 → r.words = [w0, w1, w2, w3] → hasAgent s.managementMask r.agent = true →
      (s.drain ≠ none → exec .stageWindow s = answered .busy [] idle) ∧
      (s.drain = none →
        (32 ≤ r.index.toNat ∨ windowOfWords w0 w1 w2 w3 = none → exec .stageWindow s = answered .invalid [] idle) ∧
        ∀ (i : WindowId) (w : WindowEntry), r.index = BitVec.ofNat 6 i.val → windowOfWords w0 w1 w2 w3 = some w →
          (w.limit < w.base → exec .stageWindow s = answered .invalid [] idle) ∧
          (w.base ≤ w.limit → s.activeBank = .a →
            exec .stageWindow s = answered .done [] { idle with bankB := poke s.bankB i w }) ∧
          (w.base ≤ w.limit → s.activeBank = .b →
            exec .stageWindow s = answered .done [] { idle with bankA := poke s.bankA i w }))) ∧
    (∀ i : WindowId, r.operation = 3 → r.index = BitVec.ofNat 6 i.val →
      (r.words = [0] → exec .readWindow s = answered .done (windowWords (peek s.bankA i)) idle) ∧
      (r.words = [1] → exec .readWindow s = answered .done (windowWords (peek s.bankB i)) idle) ∧
      (∀ w, r.words = [w] → w ≠ 0 → w ≠ 1 → exec .readWindow s = answered .invalid [] idle)) ∧
    (∀ w, r.operation = 3 → 32 ≤ r.index.toNat → r.words = [w] → exec .readWindow s = answered .invalid [] idle)

/-- The four words of a window entry hold its twelve fields in their places: page, target and valid; page, rights and prefetchable;
page, class and domain; the agent set. Every other bit is 0 when they are read back, and is ignored when they are staged: the entry
staged has the fields of those places, and a target code from 5 to 7 names none, so the words read back stage the same entry. Word 0 of
a vector entry holds its four writable fields in the places WRITE VECTOR reads; word 1 holds its own state: the cursor, the state,
again, and the serving agent with the bit that marks its presence; every other bit is 0 (12.3, R154, R155, R170, R187). -/
def Obligations.WindowAndVectorWordsRoundTrip : Prop :=
  let targetCode (t : Target) : BitVec 3 := match t with | .port p => BitVec.ofNat 3 p.val | .sink => 4
  (∀ w : WindowEntry,
    let w0 : Word := BitVec.ofBool w.valid ++ targetCode w.target ++ w.base
    let w1 : Word :=
      BitVec.ofBool w.prefetchable ++ BitVec.ofBool w.exclusiveRight ++ BitVec.ofBool w.writeRight ++
        BitVec.ofBool w.readRight ++ w.limit
    let w2 : Word := 0#1 ++ w.domain ++ (match w.cls with | .strict => 0#1 | .relaxed => 1#1) ++ w.downBase
    let w3 : Word := 0#24 ++ w.agents
    windowWords w = [w0, w1, w2, w3] ∧ windowOfWords w0 w1 w2 w3 = some w) ∧
  (∀ w0 w1 w2 w3 : Word,
    (5 ≤ (w0.extractLsb' 28 3).toNat → windowOfWords w0 w1 w2 w3 = none) ∧
    ∀ t : Target, w0.extractLsb' 28 3 = targetCode t →
      windowOfWords w0 w1 w2 w3 =
        some
          { valid := w0.getLsbD 31, base := w0.extractLsb' 0 28, limit := w1.extractLsb' 0 28, target := t,
            downBase := w2.extractLsb' 0 28, readRight := w1.getLsbD 28, writeRight := w1.getLsbD 29,
            exclusiveRight := w1.getLsbD 30, agents := w3.extractLsb' 0 8, prefetchable := w1.getLsbD 31,
            cls := if w2.getLsbD 28 = true then .relaxed else .strict, domain := w2.extractLsb' 29 2 }) ∧
  ∀ e : VectorEntry, ∃ w0 w1, vectorWords e = [w0, w1] ∧
    modeOfCode (w0.extractLsb' 1 2) = some e.mode ∧ w0.getLsbD 0 = e.enabled ∧ w0.extractLsb' 8 8 = e.agents ∧
    agentOfCode (w0.extractLsb' 3 3) = e.fixedAgent ∧
    w0 = 0#16 ++ e.agents ++ 0#2 ++ BitVec.ofNat 3 e.fixedAgent.val ++
      (match e.mode with | .fixed => 0#2 | .rotate => 1#2 | .leastBusy => 2#2) ++ BitVec.ofBool e.enabled ∧
    w1 = 0#21 ++ (match e.state with | .inService a => BitVec.ofNat 3 a.val ++ 1#1 | .pending => 0#4 | .idle => 0#4) ++
      BitVec.ofBool e.again ++ (match e.state with | .idle => 0#2 | .pending => 1#2 | .inService _ => 2#2) ++ 0#1 ++
      BitVec.ofNat 3 e.cursor.val

/-- COMMIT_WINDOWS that is accepted swaps the banks, advances the generation, makes every VALID buffer FREE and every FILLING one
STALE, and sets the drain record; with work of the old generation outstanding the drain goes on and nothing is answered. During a
drain it is answered Busy. COMMIT_DRAIN_END ends a drain whose count is 0: the staged bank becomes a copy of the active one, and the
commit is answered Done unless suppressed; it does nothing with no drain, or with one whose count is above 0 (R16, R17, R105, R164).
That a drain which ends in the acceptance event ends last, after the heads' exits and the fence test, is log 13; that
COMMIT_DRAIN_END finds a drain to end only in a state that no event leaves is log 5. -/
def Obligations.CommitSwapsTheBanksAndDrains : Prop :=
  (∀ (r : ManagementEntry) (s : State), s.current = some r → r.operation = 4 → r.words = [] →
    hasAgent s.managementMask r.agent = true →
    (s.drain ≠ none →
      exec .commitWindows s =
        .next (appendCompletion { agent := r.agent, tag := r.tag, status := .busy, data := [], words := [] }
          { s with current := none })) ∧
    (s.drain = none → s.postedIntake = [] → peek s.counts (genIndex s.generation) ≠ 0 →
      exec .commitWindows s =
        .next
          { s with
            current := none
            activeBank := match s.activeBank with | .a => .b | .b => .a
            generation := s.generation + 1
            buffers := s.buffers.map (fun b =>
              match b with
              | .valid _ _ => .free
              | .filling k l fs => .stale k l fs
              | .stale k l fs => .stale k l fs
              | .free => .free)
            lru := []
            drain := some { generation := s.generation, agent := r.agent, tag := r.tag, suppressed := false } }) ∧
    (s.drain = none →
      let swapped : State :=
        exitHeadsAndTest
          { s with
            current := none
            activeBank := match s.activeBank with | .a => .b | .b => .a
            generation := s.generation + 1
            buffers := s.buffers.map (fun b =>
              match b with
              | .valid _ _ => .free
              | .filling k l fs => .stale k l fs
              | .stale k l fs => .stale k l fs
              | .free => .free)
            lru := [] }
      exec .commitWindows s =
        .next (endDrainIfDone (raiseOnFirstRecord s
          { swapped with
            drain := some { generation := s.generation, agent := r.agent, tag := r.tag, suppressed := false } })))) ∧
  ∀ s : State,
    exec .commitDrainEnd s = .next (endDrainIfDone s) ∧ (s.drain = none → endDrainIfDone s = s) ∧
    ∀ d, s.drain = some d →
      (peek s.counts (genIndex d.generation) ≠ 0 → endDrainIfDone s = s) ∧
      (peek s.counts (genIndex d.generation) = 0 →
        endDrainIfDone s =
          { s with
            drain := none
            bankA := match s.activeBank with | .a => s.bankA | .b => s.bankB
            bankB := match s.activeBank with | .a => s.bankA | .b => s.bankB
            egress := if d.suppressed = true then s.egress else
              s.egress ++ [.completion { agent := d.agent, tag := d.tag, status := .done, data := [], words := [] }]
            ids := if d.suppressed = true then s.ids else poke s.ids (idIndex d.agent d.tag) false })

/-- PORT CONTROL: an enable is accepted in Disabled and a restart in Failed, and both enter Waiting with credits and grants 0, the
last winner non-posted and the next write sequence number 0; a disable is accepted outside Disabled, is a port exit, and leaves the
port Disabled with credits and grants 0; everything else is answered Invalid, but a disable in Disabled Done (R126, R127, R137). The
exit of a disable makes no PortFault record, names the causes "disabled" and "port disabled", and its steps are those that
PortFailureEndsThePortsWork gives: after it the port's queue is empty, its lock Open, no buffer of it VALID, and none of its slots
READY, SENT, ASSEMBLING or ORPHANED (R74, R106, R121, R138). -/
def Obligations.PortControlMovesThePort : Prop :=
  ∀ (r : ManagementEntry) (p : Port) (s : State), s.current = some r → r.operation = 5 → r.index = BitVec.ofNat 6 p.val →
    hasAgent s.managementMask r.agent = true →
    let idle : State := { s with current := none }
    let answered (st : Status) (t : State) : State :=
      appendCompletion { agent := r.agent, tag := r.tag, status := st, data := [], words := [] } t
    let x := peek s.ports p
    let waiting : State :=
      { idle with
        ports := poke s.ports p
          { state := .waiting, postedCredit := 0, nonPostedCredit := 0, postedGrant := 0, nonPostedGrant := 0,
            lastWinner := .nonPosted, lastFault := x.lastFault }
        pwqs := poke s.pwqs p { peek s.pwqs p with nextSeq := 0 } }
    (r.words = [1] →
      exec .portControlEnable s =
        .next (if x.state = .disabled then answered .done waiting else answered .invalid idle)) ∧
    (r.words = [3] →
      exec .portControlRestart s =
        .next (if x.state = .failed then answered .done waiting else answered .invalid idle)) ∧
    (r.words = [2] → x.state = .disabled → exec .portControlDisable s = .next (answered .done idle)) ∧
    (r.words = [2] → x.state ≠ .disabled →
      let gone : State :=
        { idle with
          ports := poke s.ports p
            { x with state := .disabled, postedCredit := 0, nonPostedCredit := 0, postedGrant := 0, nonPostedGrant := 0 } }
      let exited := portExit p { discard := .disabled, lock := .portDisabled } gone
      exec .portControlDisable s = .next (answered .done (raiseOnFirstRecord s exited)) ∧
        peek exited.ports p = peek gone.ports p ∧ (peek exited.pwqs p).entries = [] ∧ peek exited.locks p = .opened ∧
        (∀ b k block, peek exited.buffers b = .valid k block → k.port ≠ p) ∧
        ∀ i u, slotUse exited i = some u → u.port = p → u.state = .lockWait ∨ u.state = .fenceWait ∨ u.state = .fillWait)

/-- WRITE_VECTOR writes the four writable fields of its entry and re-steers, or is answered Invalid for the undefined mode code;
READ_VECTOR returns the eight fields, from any agent (R154, R155, R187). A re-steer steers the entries from vector 0 to vector 63, one
after another; those that are not Pending are passed over, and it changes only entries, in-service counts and the egress queue
(R157). The mode codes 0, 1 and 2 are Fixed, Rotate and LeastBusy, and 3 names none (12.3). -/
def Obligations.VectorsAreWrittenAndRead : Prop :=
  (modeOfCode 0 = some .fixed ∧ modeOfCode 1 = some .rotate ∧ modeOfCode 2 = some .leastBusy ∧ modeOfCode 3 = none ∧
    ∀ c : BitVec 3, (agentOfCode c).val = c.toNat) ∧
  (∀ (r : ManagementEntry) (v : VectorId) (s : State), s.current = some r → r.index = BitVec.ofNat 6 v.val →
    let idle : State := { s with current := none }
    let answered (st : Status) (words : List Word) (t : State) : Host.Outcome State Fault Refusal :=
      .next (appendCompletion { agent := r.agent, tag := r.tag, status := st, data := [], words } t)
    let e := peek s.vectors v
    (∀ w : Word, r.operation = 6 → r.words = [w] → hasAgent s.managementMask r.agent = true →
      (w.extractLsb' 1 2 = 3 → exec .writeVector s = answered .invalid [] idle) ∧
      ∀ mode, modeOfCode (w.extractLsb' 1 2) = some mode →
        exec .writeVector s =
          answered .done []
            (resteer
              { idle with
                vectors := poke s.vectors v
                  { e with
                    enabled := w.getLsbD 0, mode, fixedAgent := agentOfCode (w.extractLsb' 3 3),
                    agents := w.extractLsb' 8 8 } })) ∧
    (r.operation = 7 → r.words = [] → exec .readVector s = answered .done (vectorWords e) idle)) ∧
  ∀ s : State,
    resteer s = (List.finRange 64).foldl (fun t v => steer v t) s ∧
    (∀ v, (peek s.vectors v).state ≠ .pending → peek (resteer s).vectors v = peek s.vectors v) ∧
    resteer s =
      { s with
        egress := (resteer s).egress, vectors := (resteer s).vectors, serviceCounts := (resteer s).serviceCounts }

/-! ## Laws that every step keeps -/

/-- After a cold reset every law holds. -/
def Obligations.ResetStateIsSafe : Prop :=
  WithinCapacities State.reset ∧ SettingsInRange State.reset ∧ CreditsWithinGrants State.reset ∧ LocksInService State.reset ∧
    QueuesInOrder State.reset ∧ CountsExact State.reset ∧ KeysUnique State.reset ∧ BuffersFresh State.reset ∧
    LruExact State.reset ∧ ServiceCountsExact State.reset ∧ PendingBlocked State.reset

/-- Every step keeps the capacities, the settings' ranges, and the law of R130 that a port's credits never exceed its grants
(R27, R43, R70, R119, R130, R169, R176). -/
def Obligations.CapacitiesSettingsAndCreditsKept : Prop :=
  ∀ s t : State, WithinCapacities s → SettingsInRange s → CreditsWithinGrants s → step s = .next t →
    WithinCapacities t ∧ SettingsInRange t ∧ CreditsWithinGrants t

/-- Every step keeps the law of R109 that a lock is Claimed or Held only while its port is in service. -/
def Obligations.LocksInServiceKept : Prop := ∀ s t : State, LocksInService s → step s = .next t → LocksInService t

/-- Every step keeps the law of R43: Sent entries are the oldest of their queue and consecutively numbered, and a port out of
service has an empty queue. -/
def Obligations.QueuesInOrderKept : Prop := ∀ s t : State, QueuesInOrder s → step s = .next t → QueuesInOrder t

/-- Every step keeps every generation's outstanding count equal to its queue entries and slots (R12). -/
def Obligations.CountsExactKept : Prop := ∀ s t : State, CountsExact s → step s = .next t → CountsExact t

/-- Every step keeps the keys of VALID and FILLING buffers distinct (R93), and none of them the block of a write in the posted
write queue of its port (R95, R104). -/
def Obligations.BuffersStayFresh : Prop :=
  ∀ s t : State, KeysUnique s → BuffersFresh s → step s = .next t → KeysUnique t ∧ BuffersFresh t

/-- Every step keeps the LRU list equal to the VALID buffers, and the leaders' links to the fills they lead (R92, R94). -/
def Obligations.LruExactKept : Prop := ∀ s t : State, LruExact s → step s = .next t → LruExact t

/-- Every step keeps the law of R143: each in-service count is the number of entries InService to its agent. -/
def Obligations.ServiceCountsExactKept : Prop :=
  ∀ s t : State, ServiceCountsExact s → step s = .next t → ServiceCountsExact t

/-- Every step leaves only those entries Pending that are disabled or have no eligible agent (R146). -/
def Obligations.PendingBlockedKept : Prop := ∀ s t : State, PendingBlocked s → step s = .next t → PendingBlocked t

end
end

