-- ==== Sys2Proof/Laws/State.lean ====
section
/-! SUPPORT. Reading a field after an update: one lemma per field per named update, so that no proof unfolds a record update; and
reading a table after one of its elements is replaced. -/

namespace Sys2Proof.Machine

/-! ## Tables -/

@[simp] theorem peek_poke_same {α : Type} {n : Nat} (v : Vector α n) (i : Fin n) (a : α) : peek (poke v i a) i = a := by
  simp [peek, poke]

theorem peek_poke_ne {α : Type} {n : Nat} (v : Vector α n) {i j : Fin n} (a : α) (h : i ≠ j) : peek (poke v i a) j = peek v j := by
  have h' : i.val ≠ j.val := fun e => h (Fin.ext e)
  simp [peek, poke, h']

theorem peek_poke {α : Type} {n : Nat} (v : Vector α n) (i j : Fin n) (a : α) :
    peek (poke v i a) j = if i = j then a else peek v j := by
  by_cases h : i = j
  · subst h; simp
  · simp [h, peek_poke_ne v a h]

@[simp] theorem peek_replicate {α : Type} {n : Nat} (a : α) (i : Fin n) : peek (Vector.replicate n a) i = a := by
  simp [peek]

@[simp] theorem peek_ofFn {α : Type} {n : Nat} (f : Fin n → α) (i : Fin n) : peek (Vector.ofFn f) i = f i := by
  simp [peek]

@[simp] theorem peek_map {α β : Type} {n : Nat} (f : α → β) (v : Vector α n) (i : Fin n) : peek (v.map f) i = f (peek v i) := by
  simp [peek]

@[simp] theorem poke_peek_self {α : Type} {n : Nat} (v : Vector α n) (i : Fin n) : poke v i (peek v i) = v := by
  simp [peek, poke]

theorem poke_poke {α : Type} {n : Nat} (v : Vector α n) (i : Fin n) (a b : α) : poke (poke v i a) i b = poke v i b := by
  simp [poke]

theorem table_ext {α : Type} {n : Nat} {v w : Vector α n} (h : ∀ i, peek v i = peek w i) : v = w := by
  apply Vector.ext
  intro i hi
  exact h ⟨i, hi⟩

/-! ## Fields after an update -/

@[simp] theorem appendEgress_bankA (x : EgressPacket) (s : State) : (appendEgress x s).bankA = s.bankA := rfl
@[simp] theorem appendEgress_bankB (x : EgressPacket) (s : State) : (appendEgress x s).bankB = s.bankB := rfl
@[simp] theorem appendEgress_activeBank (x : EgressPacket) (s : State) : (appendEgress x s).activeBank = s.activeBank := rfl
@[simp] theorem appendEgress_generation (x : EgressPacket) (s : State) : (appendEgress x s).generation = s.generation := rfl
@[simp] theorem appendEgress_counts (x : EgressPacket) (s : State) : (appendEgress x s).counts = s.counts := rfl
@[simp] theorem appendEgress_missRecords (x : EgressPacket) (s : State) : (appendEgress x s).missRecords = s.missRecords := rfl
@[simp] theorem appendEgress_drain (x : EgressPacket) (s : State) : (appendEgress x s).drain = s.drain := rfl
@[simp] theorem appendEgress_ids (x : EgressPacket) (s : State) : (appendEgress x s).ids = s.ids := rfl
@[simp] theorem appendEgress_arrivalCounter (x : EgressPacket) (s : State) : (appendEgress x s).arrivalCounter = s.arrivalCounter := rfl
@[simp] theorem appendEgress_postedIntake (x : EgressPacket) (s : State) : (appendEgress x s).postedIntake = s.postedIntake := rfl
@[simp] theorem appendEgress_nonPostedIntake (x : EgressPacket) (s : State) : (appendEgress x s).nonPostedIntake = s.nonPostedIntake := rfl
@[simp] theorem appendEgress_managementIntake (x : EgressPacket) (s : State) : (appendEgress x s).managementIntake = s.managementIntake := rfl
@[simp] theorem appendEgress_agentCredits (x : EgressPacket) (s : State) : (appendEgress x s).agentCredits = s.agentCredits := rfl
@[simp] theorem appendEgress_egress (x : EgressPacket) (s : State) : (appendEgress x s).egress = s.egress ++ [x] := rfl
@[simp] theorem appendEgress_upstreamLink (x : EgressPacket) (s : State) : (appendEgress x s).upstreamLink = s.upstreamLink := rfl
@[simp] theorem appendEgress_pwqs (x : EgressPacket) (s : State) : (appendEgress x s).pwqs = s.pwqs := rfl
@[simp] theorem appendEgress_slots (x : EgressPacket) (s : State) : (appendEgress x s).slots = s.slots := rfl
@[simp] theorem appendEgress_dispatch (x : EgressPacket) (s : State) : (appendEgress x s).dispatch = s.dispatch := rfl
@[simp] theorem appendEgress_timeout (x : EgressPacket) (s : State) : (appendEgress x s).timeout = s.timeout := rfl
@[simp] theorem appendEgress_fenceOrder (x : EgressPacket) (s : State) : (appendEgress x s).fenceOrder = s.fenceOrder := rfl
@[simp] theorem appendEgress_buffers (x : EgressPacket) (s : State) : (appendEgress x s).buffers = s.buffers := rfl
@[simp] theorem appendEgress_lru (x : EgressPacket) (s : State) : (appendEgress x s).lru = s.lru := rfl
@[simp] theorem appendEgress_locks (x : EgressPacket) (s : State) : (appendEgress x s).locks = s.locks := rfl
@[simp] theorem appendEgress_waiting (x : EgressPacket) (s : State) : (appendEgress x s).waiting = s.waiting := rfl
@[simp] theorem appendEgress_broken (x : EgressPacket) (s : State) : (appendEgress x s).broken = s.broken := rfl
@[simp] theorem appendEgress_holdLimit (x : EgressPacket) (s : State) : (appendEgress x s).holdLimit = s.holdLimit := rfl
@[simp] theorem appendEgress_ports (x : EgressPacket) (s : State) : (appendEgress x s).ports = s.ports := rfl
@[simp] theorem appendEgress_downstreamLinks (x : EgressPacket) (s : State) : (appendEgress x s).downstreamLinks = s.downstreamLinks := rfl
@[simp] theorem appendEgress_vectors (x : EgressPacket) (s : State) : (appendEgress x s).vectors = s.vectors := rfl
@[simp] theorem appendEgress_agentMasks (x : EgressPacket) (s : State) : (appendEgress x s).agentMasks = s.agentMasks := rfl
@[simp] theorem appendEgress_serviceCounts (x : EgressPacket) (s : State) : (appendEgress x s).serviceCounts = s.serviceCounts := rfl
@[simp] theorem appendEgress_current (x : EgressPacket) (s : State) : (appendEgress x s).current = s.current := rfl
@[simp] theorem appendEgress_managementMask (x : EgressPacket) (s : State) : (appendEgress x s).managementMask = s.managementMask := rfl
@[simp] theorem appendEgress_records (x : EgressPacket) (s : State) : (appendEgress x s).records = s.records := rfl
@[simp] theorem appendEgress_overflow (x : EgressPacket) (s : State) : (appendEgress x s).overflow = s.overflow := rfl
@[simp] theorem appendEgress_bridgeTime (x : EgressPacket) (s : State) : (appendEgress x s).bridgeTime = s.bridgeTime := rfl
@[simp] theorem appendEgress_freeReads (x : EgressPacket) (s : State) : (appendEgress x s).freeReads = s.freeReads := rfl
@[simp] theorem appendEgress_pending (x : EgressPacket) (s : State) : (appendEgress x s).pending = s.pending := rfl

@[simp] theorem takeIdentifier_bankA (a : Agent) (g : Tag) (s : State) : (takeIdentifier a g s).bankA = s.bankA := rfl
@[simp] theorem takeIdentifier_bankB (a : Agent) (g : Tag) (s : State) : (takeIdentifier a g s).bankB = s.bankB := rfl
@[simp] theorem takeIdentifier_activeBank (a : Agent) (g : Tag) (s : State) : (takeIdentifier a g s).activeBank = s.activeBank := rfl
@[simp] theorem takeIdentifier_generation (a : Agent) (g : Tag) (s : State) : (takeIdentifier a g s).generation = s.generation := rfl
@[simp] theorem takeIdentifier_counts (a : Agent) (g : Tag) (s : State) : (takeIdentifier a g s).counts = s.counts := rfl
@[simp] theorem takeIdentifier_missRecords (a : Agent) (g : Tag) (s : State) : (takeIdentifier a g s).missRecords = s.missRecords := rfl
@[simp] theorem takeIdentifier_drain (a : Agent) (g : Tag) (s : State) : (takeIdentifier a g s).drain = s.drain := rfl
@[simp] theorem takeIdentifier_ids (a : Agent) (g : Tag) (s : State) : (takeIdentifier a g s).ids = poke s.ids (idIndex a g) true := rfl
@[simp] theorem takeIdentifier_arrivalCounter (a : Agent) (g : Tag) (s : State) : (takeIdentifier a g s).arrivalCounter = s.arrivalCounter := rfl
@[simp] theorem takeIdentifier_postedIntake (a : Agent) (g : Tag) (s : State) : (takeIdentifier a g s).postedIntake = s.postedIntake := rfl
@[simp] theorem takeIdentifier_nonPostedIntake (a : Agent) (g : Tag) (s : State) : (takeIdentifier a g s).nonPostedIntake = s.nonPostedIntake := rfl
@[simp] theorem takeIdentifier_managementIntake (a : Agent) (g : Tag) (s : State) : (takeIdentifier a g s).managementIntake = s.managementIntake := rfl
@[simp] theorem takeIdentifier_agentCredits (a : Agent) (g : Tag) (s : State) : (takeIdentifier a g s).agentCredits = s.agentCredits := rfl
@[simp] theorem takeIdentifier_egress (a : Agent) (g : Tag) (s : State) : (takeIdentifier a g s).egress = s.egress := rfl
@[simp] theorem takeIdentifier_upstreamLink (a : Agent) (g : Tag) (s : State) : (takeIdentifier a g s).upstreamLink = s.upstreamLink := rfl
@[simp] theorem takeIdentifier_pwqs (a : Agent) (g : Tag) (s : State) : (takeIdentifier a g s).pwqs = s.pwqs := rfl
@[simp] theorem takeIdentifier_slots (a : Agent) (g : Tag) (s : State) : (takeIdentifier a g s).slots = s.slots := rfl
@[simp] theorem takeIdentifier_dispatch (a : Agent) (g : Tag) (s : State) : (takeIdentifier a g s).dispatch = s.dispatch := rfl
@[simp] theorem takeIdentifier_timeout (a : Agent) (g : Tag) (s : State) : (takeIdentifier a g s).timeout = s.timeout := rfl
@[simp] theorem takeIdentifier_fenceOrder (a : Agent) (g : Tag) (s : State) : (takeIdentifier a g s).fenceOrder = s.fenceOrder := rfl
@[simp] theorem takeIdentifier_buffers (a : Agent) (g : Tag) (s : State) : (takeIdentifier a g s).buffers = s.buffers := rfl
@[simp] theorem takeIdentifier_lru (a : Agent) (g : Tag) (s : State) : (takeIdentifier a g s).lru = s.lru := rfl
@[simp] theorem takeIdentifier_locks (a : Agent) (g : Tag) (s : State) : (takeIdentifier a g s).locks = s.locks := rfl
@[simp] theorem takeIdentifier_waiting (a : Agent) (g : Tag) (s : State) : (takeIdentifier a g s).waiting = s.waiting := rfl
@[simp] theorem takeIdentifier_broken (a : Agent) (g : Tag) (s : State) : (takeIdentifier a g s).broken = s.broken := rfl
@[simp] theorem takeIdentifier_holdLimit (a : Agent) (g : Tag) (s : State) : (takeIdentifier a g s).holdLimit = s.holdLimit := rfl
@[simp] theorem takeIdentifier_ports (a : Agent) (g : Tag) (s : State) : (takeIdentifier a g s).ports = s.ports := rfl
@[simp] theorem takeIdentifier_downstreamLinks (a : Agent) (g : Tag) (s : State) : (takeIdentifier a g s).downstreamLinks = s.downstreamLinks := rfl
@[simp] theorem takeIdentifier_vectors (a : Agent) (g : Tag) (s : State) : (takeIdentifier a g s).vectors = s.vectors := rfl
@[simp] theorem takeIdentifier_agentMasks (a : Agent) (g : Tag) (s : State) : (takeIdentifier a g s).agentMasks = s.agentMasks := rfl
@[simp] theorem takeIdentifier_serviceCounts (a : Agent) (g : Tag) (s : State) : (takeIdentifier a g s).serviceCounts = s.serviceCounts := rfl
@[simp] theorem takeIdentifier_current (a : Agent) (g : Tag) (s : State) : (takeIdentifier a g s).current = s.current := rfl
@[simp] theorem takeIdentifier_managementMask (a : Agent) (g : Tag) (s : State) : (takeIdentifier a g s).managementMask = s.managementMask := rfl
@[simp] theorem takeIdentifier_records (a : Agent) (g : Tag) (s : State) : (takeIdentifier a g s).records = s.records := rfl
@[simp] theorem takeIdentifier_overflow (a : Agent) (g : Tag) (s : State) : (takeIdentifier a g s).overflow = s.overflow := rfl
@[simp] theorem takeIdentifier_bridgeTime (a : Agent) (g : Tag) (s : State) : (takeIdentifier a g s).bridgeTime = s.bridgeTime := rfl
@[simp] theorem takeIdentifier_freeReads (a : Agent) (g : Tag) (s : State) : (takeIdentifier a g s).freeReads = s.freeReads := rfl
@[simp] theorem takeIdentifier_pending (a : Agent) (g : Tag) (s : State) : (takeIdentifier a g s).pending = s.pending := rfl

@[simp] theorem appendCompletion_bankA (c : Completion) (s : State) : (appendCompletion c s).bankA = s.bankA := rfl
@[simp] theorem appendCompletion_bankB (c : Completion) (s : State) : (appendCompletion c s).bankB = s.bankB := rfl
@[simp] theorem appendCompletion_activeBank (c : Completion) (s : State) : (appendCompletion c s).activeBank = s.activeBank := rfl
@[simp] theorem appendCompletion_generation (c : Completion) (s : State) : (appendCompletion c s).generation = s.generation := rfl
@[simp] theorem appendCompletion_counts (c : Completion) (s : State) : (appendCompletion c s).counts = s.counts := rfl
@[simp] theorem appendCompletion_missRecords (c : Completion) (s : State) : (appendCompletion c s).missRecords = s.missRecords := rfl
@[simp] theorem appendCompletion_drain (c : Completion) (s : State) : (appendCompletion c s).drain = s.drain := rfl
@[simp] theorem appendCompletion_ids (c : Completion) (s : State) : (appendCompletion c s).ids = poke s.ids (idIndex c.agent c.tag) false := rfl
@[simp] theorem appendCompletion_arrivalCounter (c : Completion) (s : State) : (appendCompletion c s).arrivalCounter = s.arrivalCounter := rfl
@[simp] theorem appendCompletion_postedIntake (c : Completion) (s : State) : (appendCompletion c s).postedIntake = s.postedIntake := rfl
@[simp] theorem appendCompletion_nonPostedIntake (c : Completion) (s : State) : (appendCompletion c s).nonPostedIntake = s.nonPostedIntake := rfl
@[simp] theorem appendCompletion_managementIntake (c : Completion) (s : State) : (appendCompletion c s).managementIntake = s.managementIntake := rfl
@[simp] theorem appendCompletion_agentCredits (c : Completion) (s : State) : (appendCompletion c s).agentCredits = s.agentCredits := rfl
@[simp] theorem appendCompletion_egress (c : Completion) (s : State) : (appendCompletion c s).egress = s.egress ++ [.completion c] := rfl
@[simp] theorem appendCompletion_upstreamLink (c : Completion) (s : State) : (appendCompletion c s).upstreamLink = s.upstreamLink := rfl
@[simp] theorem appendCompletion_pwqs (c : Completion) (s : State) : (appendCompletion c s).pwqs = s.pwqs := rfl
@[simp] theorem appendCompletion_slots (c : Completion) (s : State) : (appendCompletion c s).slots = s.slots := rfl
@[simp] theorem appendCompletion_dispatch (c : Completion) (s : State) : (appendCompletion c s).dispatch = s.dispatch := rfl
@[simp] theorem appendCompletion_timeout (c : Completion) (s : State) : (appendCompletion c s).timeout = s.timeout := rfl
@[simp] theorem appendCompletion_fenceOrder (c : Completion) (s : State) : (appendCompletion c s).fenceOrder = s.fenceOrder := rfl
@[simp] theorem appendCompletion_buffers (c : Completion) (s : State) : (appendCompletion c s).buffers = s.buffers := rfl
@[simp] theorem appendCompletion_lru (c : Completion) (s : State) : (appendCompletion c s).lru = s.lru := rfl
@[simp] theorem appendCompletion_locks (c : Completion) (s : State) : (appendCompletion c s).locks = s.locks := rfl
@[simp] theorem appendCompletion_waiting (c : Completion) (s : State) : (appendCompletion c s).waiting = s.waiting := rfl
@[simp] theorem appendCompletion_broken (c : Completion) (s : State) : (appendCompletion c s).broken = s.broken := rfl
@[simp] theorem appendCompletion_holdLimit (c : Completion) (s : State) : (appendCompletion c s).holdLimit = s.holdLimit := rfl
@[simp] theorem appendCompletion_ports (c : Completion) (s : State) : (appendCompletion c s).ports = s.ports := rfl
@[simp] theorem appendCompletion_downstreamLinks (c : Completion) (s : State) : (appendCompletion c s).downstreamLinks = s.downstreamLinks := rfl
@[simp] theorem appendCompletion_vectors (c : Completion) (s : State) : (appendCompletion c s).vectors = s.vectors := rfl
@[simp] theorem appendCompletion_agentMasks (c : Completion) (s : State) : (appendCompletion c s).agentMasks = s.agentMasks := rfl
@[simp] theorem appendCompletion_serviceCounts (c : Completion) (s : State) : (appendCompletion c s).serviceCounts = s.serviceCounts := rfl
@[simp] theorem appendCompletion_current (c : Completion) (s : State) : (appendCompletion c s).current = s.current := rfl
@[simp] theorem appendCompletion_managementMask (c : Completion) (s : State) : (appendCompletion c s).managementMask = s.managementMask := rfl
@[simp] theorem appendCompletion_records (c : Completion) (s : State) : (appendCompletion c s).records = s.records := rfl
@[simp] theorem appendCompletion_overflow (c : Completion) (s : State) : (appendCompletion c s).overflow = s.overflow := rfl
@[simp] theorem appendCompletion_bridgeTime (c : Completion) (s : State) : (appendCompletion c s).bridgeTime = s.bridgeTime := rfl
@[simp] theorem appendCompletion_freeReads (c : Completion) (s : State) : (appendCompletion c s).freeReads = s.freeReads := rfl
@[simp] theorem appendCompletion_pending (c : Completion) (s : State) : (appendCompletion c s).pending = s.pending := rfl

@[simp] theorem countUp_bankA (g : Generation) (s : State) : (countUp g s).bankA = s.bankA := rfl
@[simp] theorem countUp_bankB (g : Generation) (s : State) : (countUp g s).bankB = s.bankB := rfl
@[simp] theorem countUp_activeBank (g : Generation) (s : State) : (countUp g s).activeBank = s.activeBank := rfl
@[simp] theorem countUp_generation (g : Generation) (s : State) : (countUp g s).generation = s.generation := rfl
@[simp] theorem countUp_counts (g : Generation) (s : State) : (countUp g s).counts = poke s.counts (genIndex g) (countOf g s + 1) := rfl
@[simp] theorem countUp_missRecords (g : Generation) (s : State) : (countUp g s).missRecords = s.missRecords := rfl
@[simp] theorem countUp_drain (g : Generation) (s : State) : (countUp g s).drain = s.drain := rfl
@[simp] theorem countUp_ids (g : Generation) (s : State) : (countUp g s).ids = s.ids := rfl
@[simp] theorem countUp_arrivalCounter (g : Generation) (s : State) : (countUp g s).arrivalCounter = s.arrivalCounter := rfl
@[simp] theorem countUp_postedIntake (g : Generation) (s : State) : (countUp g s).postedIntake = s.postedIntake := rfl
@[simp] theorem countUp_nonPostedIntake (g : Generation) (s : State) : (countUp g s).nonPostedIntake = s.nonPostedIntake := rfl
@[simp] theorem countUp_managementIntake (g : Generation) (s : State) : (countUp g s).managementIntake = s.managementIntake := rfl
@[simp] theorem countUp_agentCredits (g : Generation) (s : State) : (countUp g s).agentCredits = s.agentCredits := rfl
@[simp] theorem countUp_egress (g : Generation) (s : State) : (countUp g s).egress = s.egress := rfl
@[simp] theorem countUp_upstreamLink (g : Generation) (s : State) : (countUp g s).upstreamLink = s.upstreamLink := rfl
@[simp] theorem countUp_pwqs (g : Generation) (s : State) : (countUp g s).pwqs = s.pwqs := rfl
@[simp] theorem countUp_slots (g : Generation) (s : State) : (countUp g s).slots = s.slots := rfl
@[simp] theorem countUp_dispatch (g : Generation) (s : State) : (countUp g s).dispatch = s.dispatch := rfl
@[simp] theorem countUp_timeout (g : Generation) (s : State) : (countUp g s).timeout = s.timeout := rfl
@[simp] theorem countUp_fenceOrder (g : Generation) (s : State) : (countUp g s).fenceOrder = s.fenceOrder := rfl
@[simp] theorem countUp_buffers (g : Generation) (s : State) : (countUp g s).buffers = s.buffers := rfl
@[simp] theorem countUp_lru (g : Generation) (s : State) : (countUp g s).lru = s.lru := rfl
@[simp] theorem countUp_locks (g : Generation) (s : State) : (countUp g s).locks = s.locks := rfl
@[simp] theorem countUp_waiting (g : Generation) (s : State) : (countUp g s).waiting = s.waiting := rfl
@[simp] theorem countUp_broken (g : Generation) (s : State) : (countUp g s).broken = s.broken := rfl
@[simp] theorem countUp_holdLimit (g : Generation) (s : State) : (countUp g s).holdLimit = s.holdLimit := rfl
@[simp] theorem countUp_ports (g : Generation) (s : State) : (countUp g s).ports = s.ports := rfl
@[simp] theorem countUp_downstreamLinks (g : Generation) (s : State) : (countUp g s).downstreamLinks = s.downstreamLinks := rfl
@[simp] theorem countUp_vectors (g : Generation) (s : State) : (countUp g s).vectors = s.vectors := rfl
@[simp] theorem countUp_agentMasks (g : Generation) (s : State) : (countUp g s).agentMasks = s.agentMasks := rfl
@[simp] theorem countUp_serviceCounts (g : Generation) (s : State) : (countUp g s).serviceCounts = s.serviceCounts := rfl
@[simp] theorem countUp_current (g : Generation) (s : State) : (countUp g s).current = s.current := rfl
@[simp] theorem countUp_managementMask (g : Generation) (s : State) : (countUp g s).managementMask = s.managementMask := rfl
@[simp] theorem countUp_records (g : Generation) (s : State) : (countUp g s).records = s.records := rfl
@[simp] theorem countUp_overflow (g : Generation) (s : State) : (countUp g s).overflow = s.overflow := rfl
@[simp] theorem countUp_bridgeTime (g : Generation) (s : State) : (countUp g s).bridgeTime = s.bridgeTime := rfl
@[simp] theorem countUp_freeReads (g : Generation) (s : State) : (countUp g s).freeReads = s.freeReads := rfl
@[simp] theorem countUp_pending (g : Generation) (s : State) : (countUp g s).pending = s.pending := rfl

@[simp] theorem putUse_bankA (i : SlotId) (u : Option SlotUse) (s : State) : (putUse i u s).bankA = s.bankA := rfl
@[simp] theorem putUse_bankB (i : SlotId) (u : Option SlotUse) (s : State) : (putUse i u s).bankB = s.bankB := rfl
@[simp] theorem putUse_activeBank (i : SlotId) (u : Option SlotUse) (s : State) : (putUse i u s).activeBank = s.activeBank := rfl
@[simp] theorem putUse_generation (i : SlotId) (u : Option SlotUse) (s : State) : (putUse i u s).generation = s.generation := rfl
@[simp] theorem putUse_counts (i : SlotId) (u : Option SlotUse) (s : State) : (putUse i u s).counts = s.counts := rfl
@[simp] theorem putUse_missRecords (i : SlotId) (u : Option SlotUse) (s : State) : (putUse i u s).missRecords = s.missRecords := rfl
@[simp] theorem putUse_drain (i : SlotId) (u : Option SlotUse) (s : State) : (putUse i u s).drain = s.drain := rfl
@[simp] theorem putUse_ids (i : SlotId) (u : Option SlotUse) (s : State) : (putUse i u s).ids = s.ids := rfl
@[simp] theorem putUse_arrivalCounter (i : SlotId) (u : Option SlotUse) (s : State) : (putUse i u s).arrivalCounter = s.arrivalCounter := rfl
@[simp] theorem putUse_postedIntake (i : SlotId) (u : Option SlotUse) (s : State) : (putUse i u s).postedIntake = s.postedIntake := rfl
@[simp] theorem putUse_nonPostedIntake (i : SlotId) (u : Option SlotUse) (s : State) : (putUse i u s).nonPostedIntake = s.nonPostedIntake := rfl
@[simp] theorem putUse_managementIntake (i : SlotId) (u : Option SlotUse) (s : State) : (putUse i u s).managementIntake = s.managementIntake := rfl
@[simp] theorem putUse_agentCredits (i : SlotId) (u : Option SlotUse) (s : State) : (putUse i u s).agentCredits = s.agentCredits := rfl
@[simp] theorem putUse_egress (i : SlotId) (u : Option SlotUse) (s : State) : (putUse i u s).egress = s.egress := rfl
@[simp] theorem putUse_upstreamLink (i : SlotId) (u : Option SlotUse) (s : State) : (putUse i u s).upstreamLink = s.upstreamLink := rfl
@[simp] theorem putUse_pwqs (i : SlotId) (u : Option SlotUse) (s : State) : (putUse i u s).pwqs = s.pwqs := rfl
@[simp] theorem putUse_slots (i : SlotId) (u : Option SlotUse) (s : State) : (putUse i u s).slots = poke s.slots i { epoch := (peek s.slots i).epoch, use := u } := rfl
@[simp] theorem putUse_dispatch (i : SlotId) (u : Option SlotUse) (s : State) : (putUse i u s).dispatch = s.dispatch := rfl
@[simp] theorem putUse_timeout (i : SlotId) (u : Option SlotUse) (s : State) : (putUse i u s).timeout = s.timeout := rfl
@[simp] theorem putUse_fenceOrder (i : SlotId) (u : Option SlotUse) (s : State) : (putUse i u s).fenceOrder = s.fenceOrder := rfl
@[simp] theorem putUse_buffers (i : SlotId) (u : Option SlotUse) (s : State) : (putUse i u s).buffers = s.buffers := rfl
@[simp] theorem putUse_lru (i : SlotId) (u : Option SlotUse) (s : State) : (putUse i u s).lru = s.lru := rfl
@[simp] theorem putUse_locks (i : SlotId) (u : Option SlotUse) (s : State) : (putUse i u s).locks = s.locks := rfl
@[simp] theorem putUse_waiting (i : SlotId) (u : Option SlotUse) (s : State) : (putUse i u s).waiting = s.waiting := rfl
@[simp] theorem putUse_broken (i : SlotId) (u : Option SlotUse) (s : State) : (putUse i u s).broken = s.broken := rfl
@[simp] theorem putUse_holdLimit (i : SlotId) (u : Option SlotUse) (s : State) : (putUse i u s).holdLimit = s.holdLimit := rfl
@[simp] theorem putUse_ports (i : SlotId) (u : Option SlotUse) (s : State) : (putUse i u s).ports = s.ports := rfl
@[simp] theorem putUse_downstreamLinks (i : SlotId) (u : Option SlotUse) (s : State) : (putUse i u s).downstreamLinks = s.downstreamLinks := rfl
@[simp] theorem putUse_vectors (i : SlotId) (u : Option SlotUse) (s : State) : (putUse i u s).vectors = s.vectors := rfl
@[simp] theorem putUse_agentMasks (i : SlotId) (u : Option SlotUse) (s : State) : (putUse i u s).agentMasks = s.agentMasks := rfl
@[simp] theorem putUse_serviceCounts (i : SlotId) (u : Option SlotUse) (s : State) : (putUse i u s).serviceCounts = s.serviceCounts := rfl
@[simp] theorem putUse_current (i : SlotId) (u : Option SlotUse) (s : State) : (putUse i u s).current = s.current := rfl
@[simp] theorem putUse_managementMask (i : SlotId) (u : Option SlotUse) (s : State) : (putUse i u s).managementMask = s.managementMask := rfl
@[simp] theorem putUse_records (i : SlotId) (u : Option SlotUse) (s : State) : (putUse i u s).records = s.records := rfl
@[simp] theorem putUse_overflow (i : SlotId) (u : Option SlotUse) (s : State) : (putUse i u s).overflow = s.overflow := rfl
@[simp] theorem putUse_bridgeTime (i : SlotId) (u : Option SlotUse) (s : State) : (putUse i u s).bridgeTime = s.bridgeTime := rfl
@[simp] theorem putUse_freeReads (i : SlotId) (u : Option SlotUse) (s : State) : (putUse i u s).freeReads = s.freeReads := rfl
@[simp] theorem putUse_pending (i : SlotId) (u : Option SlotUse) (s : State) : (putUse i u s).pending = s.pending := rfl

@[simp] theorem touchBuffer_bankA (b : BufferId) (s : State) : (touchBuffer b s).bankA = s.bankA := rfl
@[simp] theorem touchBuffer_bankB (b : BufferId) (s : State) : (touchBuffer b s).bankB = s.bankB := rfl
@[simp] theorem touchBuffer_activeBank (b : BufferId) (s : State) : (touchBuffer b s).activeBank = s.activeBank := rfl
@[simp] theorem touchBuffer_generation (b : BufferId) (s : State) : (touchBuffer b s).generation = s.generation := rfl
@[simp] theorem touchBuffer_counts (b : BufferId) (s : State) : (touchBuffer b s).counts = s.counts := rfl
@[simp] theorem touchBuffer_missRecords (b : BufferId) (s : State) : (touchBuffer b s).missRecords = s.missRecords := rfl
@[simp] theorem touchBuffer_drain (b : BufferId) (s : State) : (touchBuffer b s).drain = s.drain := rfl
@[simp] theorem touchBuffer_ids (b : BufferId) (s : State) : (touchBuffer b s).ids = s.ids := rfl
@[simp] theorem touchBuffer_arrivalCounter (b : BufferId) (s : State) : (touchBuffer b s).arrivalCounter = s.arrivalCounter := rfl
@[simp] theorem touchBuffer_postedIntake (b : BufferId) (s : State) : (touchBuffer b s).postedIntake = s.postedIntake := rfl
@[simp] theorem touchBuffer_nonPostedIntake (b : BufferId) (s : State) : (touchBuffer b s).nonPostedIntake = s.nonPostedIntake := rfl
@[simp] theorem touchBuffer_managementIntake (b : BufferId) (s : State) : (touchBuffer b s).managementIntake = s.managementIntake := rfl
@[simp] theorem touchBuffer_agentCredits (b : BufferId) (s : State) : (touchBuffer b s).agentCredits = s.agentCredits := rfl
@[simp] theorem touchBuffer_egress (b : BufferId) (s : State) : (touchBuffer b s).egress = s.egress := rfl
@[simp] theorem touchBuffer_upstreamLink (b : BufferId) (s : State) : (touchBuffer b s).upstreamLink = s.upstreamLink := rfl
@[simp] theorem touchBuffer_pwqs (b : BufferId) (s : State) : (touchBuffer b s).pwqs = s.pwqs := rfl
@[simp] theorem touchBuffer_slots (b : BufferId) (s : State) : (touchBuffer b s).slots = s.slots := rfl
@[simp] theorem touchBuffer_dispatch (b : BufferId) (s : State) : (touchBuffer b s).dispatch = s.dispatch := rfl
@[simp] theorem touchBuffer_timeout (b : BufferId) (s : State) : (touchBuffer b s).timeout = s.timeout := rfl
@[simp] theorem touchBuffer_fenceOrder (b : BufferId) (s : State) : (touchBuffer b s).fenceOrder = s.fenceOrder := rfl
@[simp] theorem touchBuffer_buffers (b : BufferId) (s : State) : (touchBuffer b s).buffers = s.buffers := rfl
@[simp] theorem touchBuffer_lru (b : BufferId) (s : State) : (touchBuffer b s).lru = without b s.lru ++ [b] := rfl
@[simp] theorem touchBuffer_locks (b : BufferId) (s : State) : (touchBuffer b s).locks = s.locks := rfl
@[simp] theorem touchBuffer_waiting (b : BufferId) (s : State) : (touchBuffer b s).waiting = s.waiting := rfl
@[simp] theorem touchBuffer_broken (b : BufferId) (s : State) : (touchBuffer b s).broken = s.broken := rfl
@[simp] theorem touchBuffer_holdLimit (b : BufferId) (s : State) : (touchBuffer b s).holdLimit = s.holdLimit := rfl
@[simp] theorem touchBuffer_ports (b : BufferId) (s : State) : (touchBuffer b s).ports = s.ports := rfl
@[simp] theorem touchBuffer_downstreamLinks (b : BufferId) (s : State) : (touchBuffer b s).downstreamLinks = s.downstreamLinks := rfl
@[simp] theorem touchBuffer_vectors (b : BufferId) (s : State) : (touchBuffer b s).vectors = s.vectors := rfl
@[simp] theorem touchBuffer_agentMasks (b : BufferId) (s : State) : (touchBuffer b s).agentMasks = s.agentMasks := rfl
@[simp] theorem touchBuffer_serviceCounts (b : BufferId) (s : State) : (touchBuffer b s).serviceCounts = s.serviceCounts := rfl
@[simp] theorem touchBuffer_current (b : BufferId) (s : State) : (touchBuffer b s).current = s.current := rfl
@[simp] theorem touchBuffer_managementMask (b : BufferId) (s : State) : (touchBuffer b s).managementMask = s.managementMask := rfl
@[simp] theorem touchBuffer_records (b : BufferId) (s : State) : (touchBuffer b s).records = s.records := rfl
@[simp] theorem touchBuffer_overflow (b : BufferId) (s : State) : (touchBuffer b s).overflow = s.overflow := rfl
@[simp] theorem touchBuffer_bridgeTime (b : BufferId) (s : State) : (touchBuffer b s).bridgeTime = s.bridgeTime := rfl
@[simp] theorem touchBuffer_freeReads (b : BufferId) (s : State) : (touchBuffer b s).freeReads = s.freeReads := rfl
@[simp] theorem touchBuffer_pending (b : BufferId) (s : State) : (touchBuffer b s).pending = s.pending := rfl

@[simp] theorem putBuffer_bankA (b : BufferId) (x : Buffer) (s : State) : (putBuffer b x s).bankA = s.bankA := rfl
@[simp] theorem putBuffer_bankB (b : BufferId) (x : Buffer) (s : State) : (putBuffer b x s).bankB = s.bankB := rfl
@[simp] theorem putBuffer_activeBank (b : BufferId) (x : Buffer) (s : State) : (putBuffer b x s).activeBank = s.activeBank := rfl
@[simp] theorem putBuffer_generation (b : BufferId) (x : Buffer) (s : State) : (putBuffer b x s).generation = s.generation := rfl
@[simp] theorem putBuffer_counts (b : BufferId) (x : Buffer) (s : State) : (putBuffer b x s).counts = s.counts := rfl
@[simp] theorem putBuffer_missRecords (b : BufferId) (x : Buffer) (s : State) : (putBuffer b x s).missRecords = s.missRecords := rfl
@[simp] theorem putBuffer_drain (b : BufferId) (x : Buffer) (s : State) : (putBuffer b x s).drain = s.drain := rfl
@[simp] theorem putBuffer_ids (b : BufferId) (x : Buffer) (s : State) : (putBuffer b x s).ids = s.ids := rfl
@[simp] theorem putBuffer_arrivalCounter (b : BufferId) (x : Buffer) (s : State) : (putBuffer b x s).arrivalCounter = s.arrivalCounter := rfl
@[simp] theorem putBuffer_postedIntake (b : BufferId) (x : Buffer) (s : State) : (putBuffer b x s).postedIntake = s.postedIntake := rfl
@[simp] theorem putBuffer_nonPostedIntake (b : BufferId) (x : Buffer) (s : State) : (putBuffer b x s).nonPostedIntake = s.nonPostedIntake := rfl
@[simp] theorem putBuffer_managementIntake (b : BufferId) (x : Buffer) (s : State) : (putBuffer b x s).managementIntake = s.managementIntake := rfl
@[simp] theorem putBuffer_agentCredits (b : BufferId) (x : Buffer) (s : State) : (putBuffer b x s).agentCredits = s.agentCredits := rfl
@[simp] theorem putBuffer_egress (b : BufferId) (x : Buffer) (s : State) : (putBuffer b x s).egress = s.egress := rfl
@[simp] theorem putBuffer_upstreamLink (b : BufferId) (x : Buffer) (s : State) : (putBuffer b x s).upstreamLink = s.upstreamLink := rfl
@[simp] theorem putBuffer_pwqs (b : BufferId) (x : Buffer) (s : State) : (putBuffer b x s).pwqs = s.pwqs := rfl
@[simp] theorem putBuffer_slots (b : BufferId) (x : Buffer) (s : State) : (putBuffer b x s).slots = s.slots := rfl
@[simp] theorem putBuffer_dispatch (b : BufferId) (x : Buffer) (s : State) : (putBuffer b x s).dispatch = s.dispatch := rfl
@[simp] theorem putBuffer_timeout (b : BufferId) (x : Buffer) (s : State) : (putBuffer b x s).timeout = s.timeout := rfl
@[simp] theorem putBuffer_fenceOrder (b : BufferId) (x : Buffer) (s : State) : (putBuffer b x s).fenceOrder = s.fenceOrder := rfl
@[simp] theorem putBuffer_buffers (b : BufferId) (x : Buffer) (s : State) : (putBuffer b x s).buffers = poke s.buffers b x := rfl
@[simp] theorem putBuffer_lru (b : BufferId) (x : Buffer) (s : State) : (putBuffer b x s).lru = s.lru := rfl
@[simp] theorem putBuffer_locks (b : BufferId) (x : Buffer) (s : State) : (putBuffer b x s).locks = s.locks := rfl
@[simp] theorem putBuffer_waiting (b : BufferId) (x : Buffer) (s : State) : (putBuffer b x s).waiting = s.waiting := rfl
@[simp] theorem putBuffer_broken (b : BufferId) (x : Buffer) (s : State) : (putBuffer b x s).broken = s.broken := rfl
@[simp] theorem putBuffer_holdLimit (b : BufferId) (x : Buffer) (s : State) : (putBuffer b x s).holdLimit = s.holdLimit := rfl
@[simp] theorem putBuffer_ports (b : BufferId) (x : Buffer) (s : State) : (putBuffer b x s).ports = s.ports := rfl
@[simp] theorem putBuffer_downstreamLinks (b : BufferId) (x : Buffer) (s : State) : (putBuffer b x s).downstreamLinks = s.downstreamLinks := rfl
@[simp] theorem putBuffer_vectors (b : BufferId) (x : Buffer) (s : State) : (putBuffer b x s).vectors = s.vectors := rfl
@[simp] theorem putBuffer_agentMasks (b : BufferId) (x : Buffer) (s : State) : (putBuffer b x s).agentMasks = s.agentMasks := rfl
@[simp] theorem putBuffer_serviceCounts (b : BufferId) (x : Buffer) (s : State) : (putBuffer b x s).serviceCounts = s.serviceCounts := rfl
@[simp] theorem putBuffer_current (b : BufferId) (x : Buffer) (s : State) : (putBuffer b x s).current = s.current := rfl
@[simp] theorem putBuffer_managementMask (b : BufferId) (x : Buffer) (s : State) : (putBuffer b x s).managementMask = s.managementMask := rfl
@[simp] theorem putBuffer_records (b : BufferId) (x : Buffer) (s : State) : (putBuffer b x s).records = s.records := rfl
@[simp] theorem putBuffer_overflow (b : BufferId) (x : Buffer) (s : State) : (putBuffer b x s).overflow = s.overflow := rfl
@[simp] theorem putBuffer_bridgeTime (b : BufferId) (x : Buffer) (s : State) : (putBuffer b x s).bridgeTime = s.bridgeTime := rfl
@[simp] theorem putBuffer_freeReads (b : BufferId) (x : Buffer) (s : State) : (putBuffer b x s).freeReads = s.freeReads := rfl
@[simp] theorem putBuffer_pending (b : BufferId) (x : Buffer) (s : State) : (putBuffer b x s).pending = s.pending := rfl

@[simp] theorem putLock_bankA (p : Port) (l : Lock) (s : State) : (putLock p l s).bankA = s.bankA := rfl
@[simp] theorem putLock_bankB (p : Port) (l : Lock) (s : State) : (putLock p l s).bankB = s.bankB := rfl
@[simp] theorem putLock_activeBank (p : Port) (l : Lock) (s : State) : (putLock p l s).activeBank = s.activeBank := rfl
@[simp] theorem putLock_generation (p : Port) (l : Lock) (s : State) : (putLock p l s).generation = s.generation := rfl
@[simp] theorem putLock_counts (p : Port) (l : Lock) (s : State) : (putLock p l s).counts = s.counts := rfl
@[simp] theorem putLock_missRecords (p : Port) (l : Lock) (s : State) : (putLock p l s).missRecords = s.missRecords := rfl
@[simp] theorem putLock_drain (p : Port) (l : Lock) (s : State) : (putLock p l s).drain = s.drain := rfl
@[simp] theorem putLock_ids (p : Port) (l : Lock) (s : State) : (putLock p l s).ids = s.ids := rfl
@[simp] theorem putLock_arrivalCounter (p : Port) (l : Lock) (s : State) : (putLock p l s).arrivalCounter = s.arrivalCounter := rfl
@[simp] theorem putLock_postedIntake (p : Port) (l : Lock) (s : State) : (putLock p l s).postedIntake = s.postedIntake := rfl
@[simp] theorem putLock_nonPostedIntake (p : Port) (l : Lock) (s : State) : (putLock p l s).nonPostedIntake = s.nonPostedIntake := rfl
@[simp] theorem putLock_managementIntake (p : Port) (l : Lock) (s : State) : (putLock p l s).managementIntake = s.managementIntake := rfl
@[simp] theorem putLock_agentCredits (p : Port) (l : Lock) (s : State) : (putLock p l s).agentCredits = s.agentCredits := rfl
@[simp] theorem putLock_egress (p : Port) (l : Lock) (s : State) : (putLock p l s).egress = s.egress := rfl
@[simp] theorem putLock_upstreamLink (p : Port) (l : Lock) (s : State) : (putLock p l s).upstreamLink = s.upstreamLink := rfl
@[simp] theorem putLock_pwqs (p : Port) (l : Lock) (s : State) : (putLock p l s).pwqs = s.pwqs := rfl
@[simp] theorem putLock_slots (p : Port) (l : Lock) (s : State) : (putLock p l s).slots = s.slots := rfl
@[simp] theorem putLock_dispatch (p : Port) (l : Lock) (s : State) : (putLock p l s).dispatch = s.dispatch := rfl
@[simp] theorem putLock_timeout (p : Port) (l : Lock) (s : State) : (putLock p l s).timeout = s.timeout := rfl
@[simp] theorem putLock_fenceOrder (p : Port) (l : Lock) (s : State) : (putLock p l s).fenceOrder = s.fenceOrder := rfl
@[simp] theorem putLock_buffers (p : Port) (l : Lock) (s : State) : (putLock p l s).buffers = s.buffers := rfl
@[simp] theorem putLock_lru (p : Port) (l : Lock) (s : State) : (putLock p l s).lru = s.lru := rfl
@[simp] theorem putLock_locks (p : Port) (l : Lock) (s : State) : (putLock p l s).locks = poke s.locks p l := rfl
@[simp] theorem putLock_waiting (p : Port) (l : Lock) (s : State) : (putLock p l s).waiting = s.waiting := rfl
@[simp] theorem putLock_broken (p : Port) (l : Lock) (s : State) : (putLock p l s).broken = s.broken := rfl
@[simp] theorem putLock_holdLimit (p : Port) (l : Lock) (s : State) : (putLock p l s).holdLimit = s.holdLimit := rfl
@[simp] theorem putLock_ports (p : Port) (l : Lock) (s : State) : (putLock p l s).ports = s.ports := rfl
@[simp] theorem putLock_downstreamLinks (p : Port) (l : Lock) (s : State) : (putLock p l s).downstreamLinks = s.downstreamLinks := rfl
@[simp] theorem putLock_vectors (p : Port) (l : Lock) (s : State) : (putLock p l s).vectors = s.vectors := rfl
@[simp] theorem putLock_agentMasks (p : Port) (l : Lock) (s : State) : (putLock p l s).agentMasks = s.agentMasks := rfl
@[simp] theorem putLock_serviceCounts (p : Port) (l : Lock) (s : State) : (putLock p l s).serviceCounts = s.serviceCounts := rfl
@[simp] theorem putLock_current (p : Port) (l : Lock) (s : State) : (putLock p l s).current = s.current := rfl
@[simp] theorem putLock_managementMask (p : Port) (l : Lock) (s : State) : (putLock p l s).managementMask = s.managementMask := rfl
@[simp] theorem putLock_records (p : Port) (l : Lock) (s : State) : (putLock p l s).records = s.records := rfl
@[simp] theorem putLock_overflow (p : Port) (l : Lock) (s : State) : (putLock p l s).overflow = s.overflow := rfl
@[simp] theorem putLock_bridgeTime (p : Port) (l : Lock) (s : State) : (putLock p l s).bridgeTime = s.bridgeTime := rfl
@[simp] theorem putLock_freeReads (p : Port) (l : Lock) (s : State) : (putLock p l s).freeReads = s.freeReads := rfl
@[simp] theorem putLock_pending (p : Port) (l : Lock) (s : State) : (putLock p l s).pending = s.pending := rfl

@[simp] theorem putPort_bankA (p : Port) (r : PortRecord) (s : State) : (putPort p r s).bankA = s.bankA := rfl
@[simp] theorem putPort_bankB (p : Port) (r : PortRecord) (s : State) : (putPort p r s).bankB = s.bankB := rfl
@[simp] theorem putPort_activeBank (p : Port) (r : PortRecord) (s : State) : (putPort p r s).activeBank = s.activeBank := rfl
@[simp] theorem putPort_generation (p : Port) (r : PortRecord) (s : State) : (putPort p r s).generation = s.generation := rfl
@[simp] theorem putPort_counts (p : Port) (r : PortRecord) (s : State) : (putPort p r s).counts = s.counts := rfl
@[simp] theorem putPort_missRecords (p : Port) (r : PortRecord) (s : State) : (putPort p r s).missRecords = s.missRecords := rfl
@[simp] theorem putPort_drain (p : Port) (r : PortRecord) (s : State) : (putPort p r s).drain = s.drain := rfl
@[simp] theorem putPort_ids (p : Port) (r : PortRecord) (s : State) : (putPort p r s).ids = s.ids := rfl
@[simp] theorem putPort_arrivalCounter (p : Port) (r : PortRecord) (s : State) : (putPort p r s).arrivalCounter = s.arrivalCounter := rfl
@[simp] theorem putPort_postedIntake (p : Port) (r : PortRecord) (s : State) : (putPort p r s).postedIntake = s.postedIntake := rfl
@[simp] theorem putPort_nonPostedIntake (p : Port) (r : PortRecord) (s : State) : (putPort p r s).nonPostedIntake = s.nonPostedIntake := rfl
@[simp] theorem putPort_managementIntake (p : Port) (r : PortRecord) (s : State) : (putPort p r s).managementIntake = s.managementIntake := rfl
@[simp] theorem putPort_agentCredits (p : Port) (r : PortRecord) (s : State) : (putPort p r s).agentCredits = s.agentCredits := rfl
@[simp] theorem putPort_egress (p : Port) (r : PortRecord) (s : State) : (putPort p r s).egress = s.egress := rfl
@[simp] theorem putPort_upstreamLink (p : Port) (r : PortRecord) (s : State) : (putPort p r s).upstreamLink = s.upstreamLink := rfl
@[simp] theorem putPort_pwqs (p : Port) (r : PortRecord) (s : State) : (putPort p r s).pwqs = s.pwqs := rfl
@[simp] theorem putPort_slots (p : Port) (r : PortRecord) (s : State) : (putPort p r s).slots = s.slots := rfl
@[simp] theorem putPort_dispatch (p : Port) (r : PortRecord) (s : State) : (putPort p r s).dispatch = s.dispatch := rfl
@[simp] theorem putPort_timeout (p : Port) (r : PortRecord) (s : State) : (putPort p r s).timeout = s.timeout := rfl
@[simp] theorem putPort_fenceOrder (p : Port) (r : PortRecord) (s : State) : (putPort p r s).fenceOrder = s.fenceOrder := rfl
@[simp] theorem putPort_buffers (p : Port) (r : PortRecord) (s : State) : (putPort p r s).buffers = s.buffers := rfl
@[simp] theorem putPort_lru (p : Port) (r : PortRecord) (s : State) : (putPort p r s).lru = s.lru := rfl
@[simp] theorem putPort_locks (p : Port) (r : PortRecord) (s : State) : (putPort p r s).locks = s.locks := rfl
@[simp] theorem putPort_waiting (p : Port) (r : PortRecord) (s : State) : (putPort p r s).waiting = s.waiting := rfl
@[simp] theorem putPort_broken (p : Port) (r : PortRecord) (s : State) : (putPort p r s).broken = s.broken := rfl
@[simp] theorem putPort_holdLimit (p : Port) (r : PortRecord) (s : State) : (putPort p r s).holdLimit = s.holdLimit := rfl
@[simp] theorem putPort_ports (p : Port) (r : PortRecord) (s : State) : (putPort p r s).ports = poke s.ports p r := rfl
@[simp] theorem putPort_downstreamLinks (p : Port) (r : PortRecord) (s : State) : (putPort p r s).downstreamLinks = s.downstreamLinks := rfl
@[simp] theorem putPort_vectors (p : Port) (r : PortRecord) (s : State) : (putPort p r s).vectors = s.vectors := rfl
@[simp] theorem putPort_agentMasks (p : Port) (r : PortRecord) (s : State) : (putPort p r s).agentMasks = s.agentMasks := rfl
@[simp] theorem putPort_serviceCounts (p : Port) (r : PortRecord) (s : State) : (putPort p r s).serviceCounts = s.serviceCounts := rfl
@[simp] theorem putPort_current (p : Port) (r : PortRecord) (s : State) : (putPort p r s).current = s.current := rfl
@[simp] theorem putPort_managementMask (p : Port) (r : PortRecord) (s : State) : (putPort p r s).managementMask = s.managementMask := rfl
@[simp] theorem putPort_records (p : Port) (r : PortRecord) (s : State) : (putPort p r s).records = s.records := rfl
@[simp] theorem putPort_overflow (p : Port) (r : PortRecord) (s : State) : (putPort p r s).overflow = s.overflow := rfl
@[simp] theorem putPort_bridgeTime (p : Port) (r : PortRecord) (s : State) : (putPort p r s).bridgeTime = s.bridgeTime := rfl
@[simp] theorem putPort_freeReads (p : Port) (r : PortRecord) (s : State) : (putPort p r s).freeReads = s.freeReads := rfl
@[simp] theorem putPort_pending (p : Port) (r : PortRecord) (s : State) : (putPort p r s).pending = s.pending := rfl

@[simp] theorem setVectorState_bankA (v : VectorId) (x : VectorState) (s : State) : (setVectorState v x s).bankA = s.bankA := rfl
@[simp] theorem setVectorState_bankB (v : VectorId) (x : VectorState) (s : State) : (setVectorState v x s).bankB = s.bankB := rfl
@[simp] theorem setVectorState_activeBank (v : VectorId) (x : VectorState) (s : State) : (setVectorState v x s).activeBank = s.activeBank := rfl
@[simp] theorem setVectorState_generation (v : VectorId) (x : VectorState) (s : State) : (setVectorState v x s).generation = s.generation := rfl
@[simp] theorem setVectorState_counts (v : VectorId) (x : VectorState) (s : State) : (setVectorState v x s).counts = s.counts := rfl
@[simp] theorem setVectorState_missRecords (v : VectorId) (x : VectorState) (s : State) : (setVectorState v x s).missRecords = s.missRecords := rfl
@[simp] theorem setVectorState_drain (v : VectorId) (x : VectorState) (s : State) : (setVectorState v x s).drain = s.drain := rfl
@[simp] theorem setVectorState_ids (v : VectorId) (x : VectorState) (s : State) : (setVectorState v x s).ids = s.ids := rfl
@[simp] theorem setVectorState_arrivalCounter (v : VectorId) (x : VectorState) (s : State) : (setVectorState v x s).arrivalCounter = s.arrivalCounter := rfl
@[simp] theorem setVectorState_postedIntake (v : VectorId) (x : VectorState) (s : State) : (setVectorState v x s).postedIntake = s.postedIntake := rfl
@[simp] theorem setVectorState_nonPostedIntake (v : VectorId) (x : VectorState) (s : State) : (setVectorState v x s).nonPostedIntake = s.nonPostedIntake := rfl
@[simp] theorem setVectorState_managementIntake (v : VectorId) (x : VectorState) (s : State) : (setVectorState v x s).managementIntake = s.managementIntake := rfl
@[simp] theorem setVectorState_agentCredits (v : VectorId) (x : VectorState) (s : State) : (setVectorState v x s).agentCredits = s.agentCredits := rfl
@[simp] theorem setVectorState_egress (v : VectorId) (x : VectorState) (s : State) : (setVectorState v x s).egress = s.egress := rfl
@[simp] theorem setVectorState_upstreamLink (v : VectorId) (x : VectorState) (s : State) : (setVectorState v x s).upstreamLink = s.upstreamLink := rfl
@[simp] theorem setVectorState_pwqs (v : VectorId) (x : VectorState) (s : State) : (setVectorState v x s).pwqs = s.pwqs := rfl
@[simp] theorem setVectorState_slots (v : VectorId) (x : VectorState) (s : State) : (setVectorState v x s).slots = s.slots := rfl
@[simp] theorem setVectorState_dispatch (v : VectorId) (x : VectorState) (s : State) : (setVectorState v x s).dispatch = s.dispatch := rfl
@[simp] theorem setVectorState_timeout (v : VectorId) (x : VectorState) (s : State) : (setVectorState v x s).timeout = s.timeout := rfl
@[simp] theorem setVectorState_fenceOrder (v : VectorId) (x : VectorState) (s : State) : (setVectorState v x s).fenceOrder = s.fenceOrder := rfl
@[simp] theorem setVectorState_buffers (v : VectorId) (x : VectorState) (s : State) : (setVectorState v x s).buffers = s.buffers := rfl
@[simp] theorem setVectorState_lru (v : VectorId) (x : VectorState) (s : State) : (setVectorState v x s).lru = s.lru := rfl
@[simp] theorem setVectorState_locks (v : VectorId) (x : VectorState) (s : State) : (setVectorState v x s).locks = s.locks := rfl
@[simp] theorem setVectorState_waiting (v : VectorId) (x : VectorState) (s : State) : (setVectorState v x s).waiting = s.waiting := rfl
@[simp] theorem setVectorState_broken (v : VectorId) (x : VectorState) (s : State) : (setVectorState v x s).broken = s.broken := rfl
@[simp] theorem setVectorState_holdLimit (v : VectorId) (x : VectorState) (s : State) : (setVectorState v x s).holdLimit = s.holdLimit := rfl
@[simp] theorem setVectorState_ports (v : VectorId) (x : VectorState) (s : State) : (setVectorState v x s).ports = s.ports := rfl
@[simp] theorem setVectorState_downstreamLinks (v : VectorId) (x : VectorState) (s : State) : (setVectorState v x s).downstreamLinks = s.downstreamLinks := rfl
@[simp] theorem setVectorState_vectors (v : VectorId) (x : VectorState) (s : State) : (setVectorState v x s).vectors = poke s.vectors v { peek s.vectors v with state := x } := rfl
@[simp] theorem setVectorState_agentMasks (v : VectorId) (x : VectorState) (s : State) : (setVectorState v x s).agentMasks = s.agentMasks := rfl
@[simp] theorem setVectorState_serviceCounts (v : VectorId) (x : VectorState) (s : State) : (setVectorState v x s).serviceCounts = s.serviceCounts := rfl
@[simp] theorem setVectorState_current (v : VectorId) (x : VectorState) (s : State) : (setVectorState v x s).current = s.current := rfl
@[simp] theorem setVectorState_managementMask (v : VectorId) (x : VectorState) (s : State) : (setVectorState v x s).managementMask = s.managementMask := rfl
@[simp] theorem setVectorState_records (v : VectorId) (x : VectorState) (s : State) : (setVectorState v x s).records = s.records := rfl
@[simp] theorem setVectorState_overflow (v : VectorId) (x : VectorState) (s : State) : (setVectorState v x s).overflow = s.overflow := rfl
@[simp] theorem setVectorState_bridgeTime (v : VectorId) (x : VectorState) (s : State) : (setVectorState v x s).bridgeTime = s.bridgeTime := rfl
@[simp] theorem setVectorState_freeReads (v : VectorId) (x : VectorState) (s : State) : (setVectorState v x s).freeReads = s.freeReads := rfl
@[simp] theorem setVectorState_pending (v : VectorId) (x : VectorState) (s : State) : (setVectorState v x s).pending = s.pending := rfl

@[simp] theorem takeNumber_bankA (s : State) : (takeNumber s).bankA = s.bankA := rfl
@[simp] theorem takeNumber_bankB (s : State) : (takeNumber s).bankB = s.bankB := rfl
@[simp] theorem takeNumber_activeBank (s : State) : (takeNumber s).activeBank = s.activeBank := rfl
@[simp] theorem takeNumber_generation (s : State) : (takeNumber s).generation = s.generation := rfl
@[simp] theorem takeNumber_counts (s : State) : (takeNumber s).counts = s.counts := rfl
@[simp] theorem takeNumber_missRecords (s : State) : (takeNumber s).missRecords = s.missRecords := rfl
@[simp] theorem takeNumber_drain (s : State) : (takeNumber s).drain = s.drain := rfl
@[simp] theorem takeNumber_ids (s : State) : (takeNumber s).ids = s.ids := rfl
@[simp] theorem takeNumber_arrivalCounter (s : State) : (takeNumber s).arrivalCounter = s.arrivalCounter + 1 := rfl
@[simp] theorem takeNumber_postedIntake (s : State) : (takeNumber s).postedIntake = s.postedIntake := rfl
@[simp] theorem takeNumber_nonPostedIntake (s : State) : (takeNumber s).nonPostedIntake = s.nonPostedIntake := rfl
@[simp] theorem takeNumber_managementIntake (s : State) : (takeNumber s).managementIntake = s.managementIntake := rfl
@[simp] theorem takeNumber_agentCredits (s : State) : (takeNumber s).agentCredits = s.agentCredits := rfl
@[simp] theorem takeNumber_egress (s : State) : (takeNumber s).egress = s.egress := rfl
@[simp] theorem takeNumber_upstreamLink (s : State) : (takeNumber s).upstreamLink = s.upstreamLink := rfl
@[simp] theorem takeNumber_pwqs (s : State) : (takeNumber s).pwqs = s.pwqs := rfl
@[simp] theorem takeNumber_slots (s : State) : (takeNumber s).slots = s.slots := rfl
@[simp] theorem takeNumber_dispatch (s : State) : (takeNumber s).dispatch = s.dispatch := rfl
@[simp] theorem takeNumber_timeout (s : State) : (takeNumber s).timeout = s.timeout := rfl
@[simp] theorem takeNumber_fenceOrder (s : State) : (takeNumber s).fenceOrder = s.fenceOrder := rfl
@[simp] theorem takeNumber_buffers (s : State) : (takeNumber s).buffers = s.buffers := rfl
@[simp] theorem takeNumber_lru (s : State) : (takeNumber s).lru = s.lru := rfl
@[simp] theorem takeNumber_locks (s : State) : (takeNumber s).locks = s.locks := rfl
@[simp] theorem takeNumber_waiting (s : State) : (takeNumber s).waiting = s.waiting := rfl
@[simp] theorem takeNumber_broken (s : State) : (takeNumber s).broken = s.broken := rfl
@[simp] theorem takeNumber_holdLimit (s : State) : (takeNumber s).holdLimit = s.holdLimit := rfl
@[simp] theorem takeNumber_ports (s : State) : (takeNumber s).ports = s.ports := rfl
@[simp] theorem takeNumber_downstreamLinks (s : State) : (takeNumber s).downstreamLinks = s.downstreamLinks := rfl
@[simp] theorem takeNumber_vectors (s : State) : (takeNumber s).vectors = s.vectors := rfl
@[simp] theorem takeNumber_agentMasks (s : State) : (takeNumber s).agentMasks = s.agentMasks := rfl
@[simp] theorem takeNumber_serviceCounts (s : State) : (takeNumber s).serviceCounts = s.serviceCounts := rfl
@[simp] theorem takeNumber_current (s : State) : (takeNumber s).current = s.current := rfl
@[simp] theorem takeNumber_managementMask (s : State) : (takeNumber s).managementMask = s.managementMask := rfl
@[simp] theorem takeNumber_records (s : State) : (takeNumber s).records = s.records := rfl
@[simp] theorem takeNumber_overflow (s : State) : (takeNumber s).overflow = s.overflow := rfl
@[simp] theorem takeNumber_bridgeTime (s : State) : (takeNumber s).bridgeTime = s.bridgeTime := rfl
@[simp] theorem takeNumber_freeReads (s : State) : (takeNumber s).freeReads = s.freeReads := rfl
@[simp] theorem takeNumber_pending (s : State) : (takeNumber s).pending = s.pending := rfl

@[simp] theorem transmitDown_bankA (p : Port) (x : DownstreamPacket) (s : State) : (transmitDown p x s).bankA = s.bankA := rfl
@[simp] theorem transmitDown_bankB (p : Port) (x : DownstreamPacket) (s : State) : (transmitDown p x s).bankB = s.bankB := rfl
@[simp] theorem transmitDown_activeBank (p : Port) (x : DownstreamPacket) (s : State) : (transmitDown p x s).activeBank = s.activeBank := rfl
@[simp] theorem transmitDown_generation (p : Port) (x : DownstreamPacket) (s : State) : (transmitDown p x s).generation = s.generation := rfl
@[simp] theorem transmitDown_counts (p : Port) (x : DownstreamPacket) (s : State) : (transmitDown p x s).counts = s.counts := rfl
@[simp] theorem transmitDown_missRecords (p : Port) (x : DownstreamPacket) (s : State) : (transmitDown p x s).missRecords = s.missRecords := rfl
@[simp] theorem transmitDown_drain (p : Port) (x : DownstreamPacket) (s : State) : (transmitDown p x s).drain = s.drain := rfl
@[simp] theorem transmitDown_ids (p : Port) (x : DownstreamPacket) (s : State) : (transmitDown p x s).ids = s.ids := rfl
@[simp] theorem transmitDown_arrivalCounter (p : Port) (x : DownstreamPacket) (s : State) : (transmitDown p x s).arrivalCounter = s.arrivalCounter := rfl
@[simp] theorem transmitDown_postedIntake (p : Port) (x : DownstreamPacket) (s : State) : (transmitDown p x s).postedIntake = s.postedIntake := rfl
@[simp] theorem transmitDown_nonPostedIntake (p : Port) (x : DownstreamPacket) (s : State) : (transmitDown p x s).nonPostedIntake = s.nonPostedIntake := rfl
@[simp] theorem transmitDown_managementIntake (p : Port) (x : DownstreamPacket) (s : State) : (transmitDown p x s).managementIntake = s.managementIntake := rfl
@[simp] theorem transmitDown_agentCredits (p : Port) (x : DownstreamPacket) (s : State) : (transmitDown p x s).agentCredits = s.agentCredits := rfl
@[simp] theorem transmitDown_egress (p : Port) (x : DownstreamPacket) (s : State) : (transmitDown p x s).egress = s.egress := rfl
@[simp] theorem transmitDown_upstreamLink (p : Port) (x : DownstreamPacket) (s : State) : (transmitDown p x s).upstreamLink = s.upstreamLink := rfl
@[simp] theorem transmitDown_pwqs (p : Port) (x : DownstreamPacket) (s : State) : (transmitDown p x s).pwqs = s.pwqs := rfl
@[simp] theorem transmitDown_slots (p : Port) (x : DownstreamPacket) (s : State) : (transmitDown p x s).slots = s.slots := rfl
@[simp] theorem transmitDown_dispatch (p : Port) (x : DownstreamPacket) (s : State) : (transmitDown p x s).dispatch = s.dispatch := rfl
@[simp] theorem transmitDown_timeout (p : Port) (x : DownstreamPacket) (s : State) : (transmitDown p x s).timeout = s.timeout := rfl
@[simp] theorem transmitDown_fenceOrder (p : Port) (x : DownstreamPacket) (s : State) : (transmitDown p x s).fenceOrder = s.fenceOrder := rfl
@[simp] theorem transmitDown_buffers (p : Port) (x : DownstreamPacket) (s : State) : (transmitDown p x s).buffers = s.buffers := rfl
@[simp] theorem transmitDown_lru (p : Port) (x : DownstreamPacket) (s : State) : (transmitDown p x s).lru = s.lru := rfl
@[simp] theorem transmitDown_locks (p : Port) (x : DownstreamPacket) (s : State) : (transmitDown p x s).locks = s.locks := rfl
@[simp] theorem transmitDown_waiting (p : Port) (x : DownstreamPacket) (s : State) : (transmitDown p x s).waiting = s.waiting := rfl
@[simp] theorem transmitDown_broken (p : Port) (x : DownstreamPacket) (s : State) : (transmitDown p x s).broken = s.broken := rfl
@[simp] theorem transmitDown_holdLimit (p : Port) (x : DownstreamPacket) (s : State) : (transmitDown p x s).holdLimit = s.holdLimit := rfl
@[simp] theorem transmitDown_ports (p : Port) (x : DownstreamPacket) (s : State) : (transmitDown p x s).ports = s.ports := rfl
@[simp] theorem transmitDown_downstreamLinks (p : Port) (x : DownstreamPacket) (s : State) : (transmitDown p x s).downstreamLinks = poke s.downstreamLinks p (peek s.downstreamLinks p ++ [x]) := rfl
@[simp] theorem transmitDown_vectors (p : Port) (x : DownstreamPacket) (s : State) : (transmitDown p x s).vectors = s.vectors := rfl
@[simp] theorem transmitDown_agentMasks (p : Port) (x : DownstreamPacket) (s : State) : (transmitDown p x s).agentMasks = s.agentMasks := rfl
@[simp] theorem transmitDown_serviceCounts (p : Port) (x : DownstreamPacket) (s : State) : (transmitDown p x s).serviceCounts = s.serviceCounts := rfl
@[simp] theorem transmitDown_current (p : Port) (x : DownstreamPacket) (s : State) : (transmitDown p x s).current = s.current := rfl
@[simp] theorem transmitDown_managementMask (p : Port) (x : DownstreamPacket) (s : State) : (transmitDown p x s).managementMask = s.managementMask := rfl
@[simp] theorem transmitDown_records (p : Port) (x : DownstreamPacket) (s : State) : (transmitDown p x s).records = s.records := rfl
@[simp] theorem transmitDown_overflow (p : Port) (x : DownstreamPacket) (s : State) : (transmitDown p x s).overflow = s.overflow := rfl
@[simp] theorem transmitDown_bridgeTime (p : Port) (x : DownstreamPacket) (s : State) : (transmitDown p x s).bridgeTime = s.bridgeTime := rfl
@[simp] theorem transmitDown_freeReads (p : Port) (x : DownstreamPacket) (s : State) : (transmitDown p x s).freeReads = s.freeReads := rfl
@[simp] theorem transmitDown_pending (p : Port) (x : DownstreamPacket) (s : State) : (transmitDown p x s).pending = s.pending := rfl

@[simp] theorem deliver_bankA (v : VectorId) (a : Agent) (s : State) : (deliver v a s).bankA = s.bankA := rfl
@[simp] theorem deliver_bankB (v : VectorId) (a : Agent) (s : State) : (deliver v a s).bankB = s.bankB := rfl
@[simp] theorem deliver_activeBank (v : VectorId) (a : Agent) (s : State) : (deliver v a s).activeBank = s.activeBank := rfl
@[simp] theorem deliver_generation (v : VectorId) (a : Agent) (s : State) : (deliver v a s).generation = s.generation := rfl
@[simp] theorem deliver_counts (v : VectorId) (a : Agent) (s : State) : (deliver v a s).counts = s.counts := rfl
@[simp] theorem deliver_missRecords (v : VectorId) (a : Agent) (s : State) : (deliver v a s).missRecords = s.missRecords := rfl
@[simp] theorem deliver_drain (v : VectorId) (a : Agent) (s : State) : (deliver v a s).drain = s.drain := rfl
@[simp] theorem deliver_ids (v : VectorId) (a : Agent) (s : State) : (deliver v a s).ids = s.ids := rfl
@[simp] theorem deliver_arrivalCounter (v : VectorId) (a : Agent) (s : State) : (deliver v a s).arrivalCounter = s.arrivalCounter := rfl
@[simp] theorem deliver_postedIntake (v : VectorId) (a : Agent) (s : State) : (deliver v a s).postedIntake = s.postedIntake := rfl
@[simp] theorem deliver_nonPostedIntake (v : VectorId) (a : Agent) (s : State) : (deliver v a s).nonPostedIntake = s.nonPostedIntake := rfl
@[simp] theorem deliver_managementIntake (v : VectorId) (a : Agent) (s : State) : (deliver v a s).managementIntake = s.managementIntake := rfl
@[simp] theorem deliver_agentCredits (v : VectorId) (a : Agent) (s : State) : (deliver v a s).agentCredits = s.agentCredits := rfl
@[simp] theorem deliver_upstreamLink (v : VectorId) (a : Agent) (s : State) : (deliver v a s).upstreamLink = s.upstreamLink := rfl
@[simp] theorem deliver_pwqs (v : VectorId) (a : Agent) (s : State) : (deliver v a s).pwqs = s.pwqs := rfl
@[simp] theorem deliver_slots (v : VectorId) (a : Agent) (s : State) : (deliver v a s).slots = s.slots := rfl
@[simp] theorem deliver_dispatch (v : VectorId) (a : Agent) (s : State) : (deliver v a s).dispatch = s.dispatch := rfl
@[simp] theorem deliver_timeout (v : VectorId) (a : Agent) (s : State) : (deliver v a s).timeout = s.timeout := rfl
@[simp] theorem deliver_fenceOrder (v : VectorId) (a : Agent) (s : State) : (deliver v a s).fenceOrder = s.fenceOrder := rfl
@[simp] theorem deliver_buffers (v : VectorId) (a : Agent) (s : State) : (deliver v a s).buffers = s.buffers := rfl
@[simp] theorem deliver_lru (v : VectorId) (a : Agent) (s : State) : (deliver v a s).lru = s.lru := rfl
@[simp] theorem deliver_locks (v : VectorId) (a : Agent) (s : State) : (deliver v a s).locks = s.locks := rfl
@[simp] theorem deliver_waiting (v : VectorId) (a : Agent) (s : State) : (deliver v a s).waiting = s.waiting := rfl
@[simp] theorem deliver_broken (v : VectorId) (a : Agent) (s : State) : (deliver v a s).broken = s.broken := rfl
@[simp] theorem deliver_holdLimit (v : VectorId) (a : Agent) (s : State) : (deliver v a s).holdLimit = s.holdLimit := rfl
@[simp] theorem deliver_ports (v : VectorId) (a : Agent) (s : State) : (deliver v a s).ports = s.ports := rfl
@[simp] theorem deliver_downstreamLinks (v : VectorId) (a : Agent) (s : State) : (deliver v a s).downstreamLinks = s.downstreamLinks := rfl
@[simp] theorem deliver_agentMasks (v : VectorId) (a : Agent) (s : State) : (deliver v a s).agentMasks = s.agentMasks := rfl
@[simp] theorem deliver_current (v : VectorId) (a : Agent) (s : State) : (deliver v a s).current = s.current := rfl
@[simp] theorem deliver_managementMask (v : VectorId) (a : Agent) (s : State) : (deliver v a s).managementMask = s.managementMask := rfl
@[simp] theorem deliver_records (v : VectorId) (a : Agent) (s : State) : (deliver v a s).records = s.records := rfl
@[simp] theorem deliver_overflow (v : VectorId) (a : Agent) (s : State) : (deliver v a s).overflow = s.overflow := rfl
@[simp] theorem deliver_bridgeTime (v : VectorId) (a : Agent) (s : State) : (deliver v a s).bridgeTime = s.bridgeTime := rfl
@[simp] theorem deliver_freeReads (v : VectorId) (a : Agent) (s : State) : (deliver v a s).freeReads = s.freeReads := rfl
@[simp] theorem deliver_pending (v : VectorId) (a : Agent) (s : State) : (deliver v a s).pending = s.pending := rfl

@[simp] theorem leaveService_bankA (p : Port) (x : PortState) (s : State) : (leaveService p x s).bankA = s.bankA := rfl
@[simp] theorem leaveService_bankB (p : Port) (x : PortState) (s : State) : (leaveService p x s).bankB = s.bankB := rfl
@[simp] theorem leaveService_activeBank (p : Port) (x : PortState) (s : State) : (leaveService p x s).activeBank = s.activeBank := rfl
@[simp] theorem leaveService_generation (p : Port) (x : PortState) (s : State) : (leaveService p x s).generation = s.generation := rfl
@[simp] theorem leaveService_counts (p : Port) (x : PortState) (s : State) : (leaveService p x s).counts = s.counts := rfl
@[simp] theorem leaveService_missRecords (p : Port) (x : PortState) (s : State) : (leaveService p x s).missRecords = s.missRecords := rfl
@[simp] theorem leaveService_drain (p : Port) (x : PortState) (s : State) : (leaveService p x s).drain = s.drain := rfl
@[simp] theorem leaveService_ids (p : Port) (x : PortState) (s : State) : (leaveService p x s).ids = s.ids := rfl
@[simp] theorem leaveService_arrivalCounter (p : Port) (x : PortState) (s : State) : (leaveService p x s).arrivalCounter = s.arrivalCounter := rfl
@[simp] theorem leaveService_postedIntake (p : Port) (x : PortState) (s : State) : (leaveService p x s).postedIntake = s.postedIntake := rfl
@[simp] theorem leaveService_nonPostedIntake (p : Port) (x : PortState) (s : State) : (leaveService p x s).nonPostedIntake = s.nonPostedIntake := rfl
@[simp] theorem leaveService_managementIntake (p : Port) (x : PortState) (s : State) : (leaveService p x s).managementIntake = s.managementIntake := rfl
@[simp] theorem leaveService_agentCredits (p : Port) (x : PortState) (s : State) : (leaveService p x s).agentCredits = s.agentCredits := rfl
@[simp] theorem leaveService_egress (p : Port) (x : PortState) (s : State) : (leaveService p x s).egress = s.egress := rfl
@[simp] theorem leaveService_upstreamLink (p : Port) (x : PortState) (s : State) : (leaveService p x s).upstreamLink = s.upstreamLink := rfl
@[simp] theorem leaveService_pwqs (p : Port) (x : PortState) (s : State) : (leaveService p x s).pwqs = s.pwqs := rfl
@[simp] theorem leaveService_slots (p : Port) (x : PortState) (s : State) : (leaveService p x s).slots = s.slots := rfl
@[simp] theorem leaveService_dispatch (p : Port) (x : PortState) (s : State) : (leaveService p x s).dispatch = s.dispatch := rfl
@[simp] theorem leaveService_timeout (p : Port) (x : PortState) (s : State) : (leaveService p x s).timeout = s.timeout := rfl
@[simp] theorem leaveService_fenceOrder (p : Port) (x : PortState) (s : State) : (leaveService p x s).fenceOrder = s.fenceOrder := rfl
@[simp] theorem leaveService_buffers (p : Port) (x : PortState) (s : State) : (leaveService p x s).buffers = s.buffers := rfl
@[simp] theorem leaveService_lru (p : Port) (x : PortState) (s : State) : (leaveService p x s).lru = s.lru := rfl
@[simp] theorem leaveService_locks (p : Port) (x : PortState) (s : State) : (leaveService p x s).locks = s.locks := rfl
@[simp] theorem leaveService_waiting (p : Port) (x : PortState) (s : State) : (leaveService p x s).waiting = s.waiting := rfl
@[simp] theorem leaveService_broken (p : Port) (x : PortState) (s : State) : (leaveService p x s).broken = s.broken := rfl
@[simp] theorem leaveService_holdLimit (p : Port) (x : PortState) (s : State) : (leaveService p x s).holdLimit = s.holdLimit := rfl
@[simp] theorem leaveService_downstreamLinks (p : Port) (x : PortState) (s : State) : (leaveService p x s).downstreamLinks = s.downstreamLinks := rfl
@[simp] theorem leaveService_vectors (p : Port) (x : PortState) (s : State) : (leaveService p x s).vectors = s.vectors := rfl
@[simp] theorem leaveService_agentMasks (p : Port) (x : PortState) (s : State) : (leaveService p x s).agentMasks = s.agentMasks := rfl
@[simp] theorem leaveService_serviceCounts (p : Port) (x : PortState) (s : State) : (leaveService p x s).serviceCounts = s.serviceCounts := rfl
@[simp] theorem leaveService_current (p : Port) (x : PortState) (s : State) : (leaveService p x s).current = s.current := rfl
@[simp] theorem leaveService_managementMask (p : Port) (x : PortState) (s : State) : (leaveService p x s).managementMask = s.managementMask := rfl
@[simp] theorem leaveService_records (p : Port) (x : PortState) (s : State) : (leaveService p x s).records = s.records := rfl
@[simp] theorem leaveService_overflow (p : Port) (x : PortState) (s : State) : (leaveService p x s).overflow = s.overflow := rfl
@[simp] theorem leaveService_bridgeTime (p : Port) (x : PortState) (s : State) : (leaveService p x s).bridgeTime = s.bridgeTime := rfl
@[simp] theorem leaveService_freeReads (p : Port) (x : PortState) (s : State) : (leaveService p x s).freeReads = s.freeReads := rfl
@[simp] theorem leaveService_pending (p : Port) (x : PortState) (s : State) : (leaveService p x s).pending = s.pending := rfl

@[simp] theorem enterWaiting_bankA (p : Port) (s : State) : (enterWaiting p s).bankA = s.bankA := rfl
@[simp] theorem enterWaiting_bankB (p : Port) (s : State) : (enterWaiting p s).bankB = s.bankB := rfl
@[simp] theorem enterWaiting_activeBank (p : Port) (s : State) : (enterWaiting p s).activeBank = s.activeBank := rfl
@[simp] theorem enterWaiting_generation (p : Port) (s : State) : (enterWaiting p s).generation = s.generation := rfl
@[simp] theorem enterWaiting_counts (p : Port) (s : State) : (enterWaiting p s).counts = s.counts := rfl
@[simp] theorem enterWaiting_missRecords (p : Port) (s : State) : (enterWaiting p s).missRecords = s.missRecords := rfl
@[simp] theorem enterWaiting_drain (p : Port) (s : State) : (enterWaiting p s).drain = s.drain := rfl
@[simp] theorem enterWaiting_ids (p : Port) (s : State) : (enterWaiting p s).ids = s.ids := rfl
@[simp] theorem enterWaiting_arrivalCounter (p : Port) (s : State) : (enterWaiting p s).arrivalCounter = s.arrivalCounter := rfl
@[simp] theorem enterWaiting_postedIntake (p : Port) (s : State) : (enterWaiting p s).postedIntake = s.postedIntake := rfl
@[simp] theorem enterWaiting_nonPostedIntake (p : Port) (s : State) : (enterWaiting p s).nonPostedIntake = s.nonPostedIntake := rfl
@[simp] theorem enterWaiting_managementIntake (p : Port) (s : State) : (enterWaiting p s).managementIntake = s.managementIntake := rfl
@[simp] theorem enterWaiting_agentCredits (p : Port) (s : State) : (enterWaiting p s).agentCredits = s.agentCredits := rfl
@[simp] theorem enterWaiting_egress (p : Port) (s : State) : (enterWaiting p s).egress = s.egress := rfl
@[simp] theorem enterWaiting_upstreamLink (p : Port) (s : State) : (enterWaiting p s).upstreamLink = s.upstreamLink := rfl
@[simp] theorem enterWaiting_slots (p : Port) (s : State) : (enterWaiting p s).slots = s.slots := rfl
@[simp] theorem enterWaiting_dispatch (p : Port) (s : State) : (enterWaiting p s).dispatch = s.dispatch := rfl
@[simp] theorem enterWaiting_timeout (p : Port) (s : State) : (enterWaiting p s).timeout = s.timeout := rfl
@[simp] theorem enterWaiting_fenceOrder (p : Port) (s : State) : (enterWaiting p s).fenceOrder = s.fenceOrder := rfl
@[simp] theorem enterWaiting_buffers (p : Port) (s : State) : (enterWaiting p s).buffers = s.buffers := rfl
@[simp] theorem enterWaiting_lru (p : Port) (s : State) : (enterWaiting p s).lru = s.lru := rfl
@[simp] theorem enterWaiting_locks (p : Port) (s : State) : (enterWaiting p s).locks = s.locks := rfl
@[simp] theorem enterWaiting_waiting (p : Port) (s : State) : (enterWaiting p s).waiting = s.waiting := rfl
@[simp] theorem enterWaiting_broken (p : Port) (s : State) : (enterWaiting p s).broken = s.broken := rfl
@[simp] theorem enterWaiting_holdLimit (p : Port) (s : State) : (enterWaiting p s).holdLimit = s.holdLimit := rfl
@[simp] theorem enterWaiting_downstreamLinks (p : Port) (s : State) : (enterWaiting p s).downstreamLinks = s.downstreamLinks := rfl
@[simp] theorem enterWaiting_vectors (p : Port) (s : State) : (enterWaiting p s).vectors = s.vectors := rfl
@[simp] theorem enterWaiting_agentMasks (p : Port) (s : State) : (enterWaiting p s).agentMasks = s.agentMasks := rfl
@[simp] theorem enterWaiting_serviceCounts (p : Port) (s : State) : (enterWaiting p s).serviceCounts = s.serviceCounts := rfl
@[simp] theorem enterWaiting_current (p : Port) (s : State) : (enterWaiting p s).current = s.current := rfl
@[simp] theorem enterWaiting_managementMask (p : Port) (s : State) : (enterWaiting p s).managementMask = s.managementMask := rfl
@[simp] theorem enterWaiting_records (p : Port) (s : State) : (enterWaiting p s).records = s.records := rfl
@[simp] theorem enterWaiting_overflow (p : Port) (s : State) : (enterWaiting p s).overflow = s.overflow := rfl
@[simp] theorem enterWaiting_bridgeTime (p : Port) (s : State) : (enterWaiting p s).bridgeTime = s.bridgeTime := rfl
@[simp] theorem enterWaiting_freeReads (p : Port) (s : State) : (enterWaiting p s).freeReads = s.freeReads := rfl
@[simp] theorem enterWaiting_pending (p : Port) (s : State) : (enterWaiting p s).pending = s.pending := rfl

@[simp] theorem storeRecord_bankA (x : RecordBody) (s : State) : (storeRecord x s).bankA = s.bankA := by unfold storeRecord; split <;> rfl
@[simp] theorem storeRecord_bankB (x : RecordBody) (s : State) : (storeRecord x s).bankB = s.bankB := by unfold storeRecord; split <;> rfl
@[simp] theorem storeRecord_activeBank (x : RecordBody) (s : State) : (storeRecord x s).activeBank = s.activeBank := by unfold storeRecord; split <;> rfl
@[simp] theorem storeRecord_generation (x : RecordBody) (s : State) : (storeRecord x s).generation = s.generation := by unfold storeRecord; split <;> rfl
@[simp] theorem storeRecord_counts (x : RecordBody) (s : State) : (storeRecord x s).counts = s.counts := by unfold storeRecord; split <;> rfl
@[simp] theorem storeRecord_missRecords (x : RecordBody) (s : State) : (storeRecord x s).missRecords = s.missRecords := by unfold storeRecord; split <;> rfl
@[simp] theorem storeRecord_drain (x : RecordBody) (s : State) : (storeRecord x s).drain = s.drain := by unfold storeRecord; split <;> rfl
@[simp] theorem storeRecord_ids (x : RecordBody) (s : State) : (storeRecord x s).ids = s.ids := by unfold storeRecord; split <;> rfl
@[simp] theorem storeRecord_arrivalCounter (x : RecordBody) (s : State) : (storeRecord x s).arrivalCounter = s.arrivalCounter := by unfold storeRecord; split <;> rfl
@[simp] theorem storeRecord_postedIntake (x : RecordBody) (s : State) : (storeRecord x s).postedIntake = s.postedIntake := by unfold storeRecord; split <;> rfl
@[simp] theorem storeRecord_nonPostedIntake (x : RecordBody) (s : State) : (storeRecord x s).nonPostedIntake = s.nonPostedIntake := by unfold storeRecord; split <;> rfl
@[simp] theorem storeRecord_managementIntake (x : RecordBody) (s : State) : (storeRecord x s).managementIntake = s.managementIntake := by unfold storeRecord; split <;> rfl
@[simp] theorem storeRecord_agentCredits (x : RecordBody) (s : State) : (storeRecord x s).agentCredits = s.agentCredits := by unfold storeRecord; split <;> rfl
@[simp] theorem storeRecord_egress (x : RecordBody) (s : State) : (storeRecord x s).egress = s.egress := by unfold storeRecord; split <;> rfl
@[simp] theorem storeRecord_upstreamLink (x : RecordBody) (s : State) : (storeRecord x s).upstreamLink = s.upstreamLink := by unfold storeRecord; split <;> rfl
@[simp] theorem storeRecord_pwqs (x : RecordBody) (s : State) : (storeRecord x s).pwqs = s.pwqs := by unfold storeRecord; split <;> rfl
@[simp] theorem storeRecord_slots (x : RecordBody) (s : State) : (storeRecord x s).slots = s.slots := by unfold storeRecord; split <;> rfl
@[simp] theorem storeRecord_dispatch (x : RecordBody) (s : State) : (storeRecord x s).dispatch = s.dispatch := by unfold storeRecord; split <;> rfl
@[simp] theorem storeRecord_timeout (x : RecordBody) (s : State) : (storeRecord x s).timeout = s.timeout := by unfold storeRecord; split <;> rfl
@[simp] theorem storeRecord_fenceOrder (x : RecordBody) (s : State) : (storeRecord x s).fenceOrder = s.fenceOrder := by unfold storeRecord; split <;> rfl
@[simp] theorem storeRecord_buffers (x : RecordBody) (s : State) : (storeRecord x s).buffers = s.buffers := by unfold storeRecord; split <;> rfl
@[simp] theorem storeRecord_lru (x : RecordBody) (s : State) : (storeRecord x s).lru = s.lru := by unfold storeRecord; split <;> rfl
@[simp] theorem storeRecord_locks (x : RecordBody) (s : State) : (storeRecord x s).locks = s.locks := by unfold storeRecord; split <;> rfl
@[simp] theorem storeRecord_waiting (x : RecordBody) (s : State) : (storeRecord x s).waiting = s.waiting := by unfold storeRecord; split <;> rfl
@[simp] theorem storeRecord_broken (x : RecordBody) (s : State) : (storeRecord x s).broken = s.broken := by unfold storeRecord; split <;> rfl
@[simp] theorem storeRecord_holdLimit (x : RecordBody) (s : State) : (storeRecord x s).holdLimit = s.holdLimit := by unfold storeRecord; split <;> rfl
@[simp] theorem storeRecord_ports (x : RecordBody) (s : State) : (storeRecord x s).ports = s.ports := by unfold storeRecord; split <;> rfl
@[simp] theorem storeRecord_downstreamLinks (x : RecordBody) (s : State) : (storeRecord x s).downstreamLinks = s.downstreamLinks := by unfold storeRecord; split <;> rfl
@[simp] theorem storeRecord_vectors (x : RecordBody) (s : State) : (storeRecord x s).vectors = s.vectors := by unfold storeRecord; split <;> rfl
@[simp] theorem storeRecord_agentMasks (x : RecordBody) (s : State) : (storeRecord x s).agentMasks = s.agentMasks := by unfold storeRecord; split <;> rfl
@[simp] theorem storeRecord_serviceCounts (x : RecordBody) (s : State) : (storeRecord x s).serviceCounts = s.serviceCounts := by unfold storeRecord; split <;> rfl
@[simp] theorem storeRecord_current (x : RecordBody) (s : State) : (storeRecord x s).current = s.current := by unfold storeRecord; split <;> rfl
@[simp] theorem storeRecord_managementMask (x : RecordBody) (s : State) : (storeRecord x s).managementMask = s.managementMask := by unfold storeRecord; split <;> rfl
@[simp] theorem storeRecord_bridgeTime (x : RecordBody) (s : State) : (storeRecord x s).bridgeTime = s.bridgeTime := by unfold storeRecord; split <;> rfl
@[simp] theorem storeRecord_freeReads (x : RecordBody) (s : State) : (storeRecord x s).freeReads = s.freeReads := by unfold storeRecord; split <;> rfl
@[simp] theorem storeRecord_pending (x : RecordBody) (s : State) : (storeRecord x s).pending = s.pending := by unfold storeRecord; split <;> rfl

end Sys2Proof.Machine
end

