-- ==== Sys2Proof/Laws/Frame.lean ====
section
/-! SUPPORT. Frames: what each shared operation can change, said once for all of State. A frame says that one state is another
with nothing but the named fields changed; its projections give each other field. -/

namespace Sys2Proof.Machine

/-- A relation that holds across every step of a fold holds across the fold. -/
theorem fold_keeps {α : Type} {R : State → State → Prop} (refl : ∀ s, R s s) (trans : ∀ {a b c}, R a b → R b c → R a c)
    (f : State → α → State) (h : ∀ s x, R s (f s x)) (l : List α) (s : State) : R s (l.foldl f s) := by
  induction l generalizing s with
  | nil => exact refl s
  | cons x rest ih => exact trans (h s x) (ih (f s x))

/-- Only what the freeing of a slot, the counts and the end of a drain may change. -/
def FreeFrame (s t : State) : Prop :=
  t = { s with
    slots := t.slots
    counts := t.counts
    bankA := t.bankA
    bankB := t.bankB
    drain := t.drain
    egress := t.egress
    ids := t.ids
  }

theorem FreeFrame.refl (s : State) : FreeFrame s s := rfl

theorem FreeFrame.trans {a b c : State} (h : FreeFrame a b) (k : FreeFrame b c) : FreeFrame a c :=
  Eq.trans k (congrArg (fun x : State => { x with slots := c.slots, counts := c.counts, bankA := c.bankA, bankB := c.bankB, drain := c.drain, egress := c.egress, ids := c.ids }) h)

theorem FreeFrame.fold {α : Type} (f : State → α → State) (h : ∀ s x, FreeFrame s (f s x)) (l : List α) (s : State) :
    FreeFrame s (l.foldl f s) := fold_keeps FreeFrame.refl FreeFrame.trans f h l s

theorem FreeFrame.activeBank {s t : State} (h : FreeFrame s t) : t.activeBank = s.activeBank := by
  have e := congrArg State.activeBank h
  exact e
theorem FreeFrame.generation {s t : State} (h : FreeFrame s t) : t.generation = s.generation := by
  have e := congrArg State.generation h
  exact e
theorem FreeFrame.missRecords {s t : State} (h : FreeFrame s t) : t.missRecords = s.missRecords := by
  have e := congrArg State.missRecords h
  exact e
theorem FreeFrame.arrivalCounter {s t : State} (h : FreeFrame s t) : t.arrivalCounter = s.arrivalCounter := by
  have e := congrArg State.arrivalCounter h
  exact e
theorem FreeFrame.postedIntake {s t : State} (h : FreeFrame s t) : t.postedIntake = s.postedIntake := by
  have e := congrArg State.postedIntake h
  exact e
theorem FreeFrame.nonPostedIntake {s t : State} (h : FreeFrame s t) : t.nonPostedIntake = s.nonPostedIntake := by
  have e := congrArg State.nonPostedIntake h
  exact e
theorem FreeFrame.managementIntake {s t : State} (h : FreeFrame s t) : t.managementIntake = s.managementIntake := by
  have e := congrArg State.managementIntake h
  exact e
theorem FreeFrame.agentCredits {s t : State} (h : FreeFrame s t) : t.agentCredits = s.agentCredits := by
  have e := congrArg State.agentCredits h
  exact e
theorem FreeFrame.upstreamLink {s t : State} (h : FreeFrame s t) : t.upstreamLink = s.upstreamLink := by
  have e := congrArg State.upstreamLink h
  exact e
theorem FreeFrame.pwqs {s t : State} (h : FreeFrame s t) : t.pwqs = s.pwqs := by
  have e := congrArg State.pwqs h
  exact e
theorem FreeFrame.dispatch {s t : State} (h : FreeFrame s t) : t.dispatch = s.dispatch := by
  have e := congrArg State.dispatch h
  exact e
theorem FreeFrame.timeout {s t : State} (h : FreeFrame s t) : t.timeout = s.timeout := by
  have e := congrArg State.timeout h
  exact e
theorem FreeFrame.fenceOrder {s t : State} (h : FreeFrame s t) : t.fenceOrder = s.fenceOrder := by
  have e := congrArg State.fenceOrder h
  exact e
theorem FreeFrame.buffers {s t : State} (h : FreeFrame s t) : t.buffers = s.buffers := by
  have e := congrArg State.buffers h
  exact e
theorem FreeFrame.lru {s t : State} (h : FreeFrame s t) : t.lru = s.lru := by
  have e := congrArg State.lru h
  exact e
theorem FreeFrame.locks {s t : State} (h : FreeFrame s t) : t.locks = s.locks := by
  have e := congrArg State.locks h
  exact e
theorem FreeFrame.waiting {s t : State} (h : FreeFrame s t) : t.waiting = s.waiting := by
  have e := congrArg State.waiting h
  exact e
theorem FreeFrame.broken {s t : State} (h : FreeFrame s t) : t.broken = s.broken := by
  have e := congrArg State.broken h
  exact e
theorem FreeFrame.holdLimit {s t : State} (h : FreeFrame s t) : t.holdLimit = s.holdLimit := by
  have e := congrArg State.holdLimit h
  exact e
theorem FreeFrame.ports {s t : State} (h : FreeFrame s t) : t.ports = s.ports := by
  have e := congrArg State.ports h
  exact e
theorem FreeFrame.downstreamLinks {s t : State} (h : FreeFrame s t) : t.downstreamLinks = s.downstreamLinks := by
  have e := congrArg State.downstreamLinks h
  exact e
theorem FreeFrame.vectors {s t : State} (h : FreeFrame s t) : t.vectors = s.vectors := by
  have e := congrArg State.vectors h
  exact e
theorem FreeFrame.agentMasks {s t : State} (h : FreeFrame s t) : t.agentMasks = s.agentMasks := by
  have e := congrArg State.agentMasks h
  exact e
theorem FreeFrame.serviceCounts {s t : State} (h : FreeFrame s t) : t.serviceCounts = s.serviceCounts := by
  have e := congrArg State.serviceCounts h
  exact e
theorem FreeFrame.current {s t : State} (h : FreeFrame s t) : t.current = s.current := by
  have e := congrArg State.current h
  exact e
theorem FreeFrame.managementMask {s t : State} (h : FreeFrame s t) : t.managementMask = s.managementMask := by
  have e := congrArg State.managementMask h
  exact e
theorem FreeFrame.records {s t : State} (h : FreeFrame s t) : t.records = s.records := by
  have e := congrArg State.records h
  exact e
theorem FreeFrame.overflow {s t : State} (h : FreeFrame s t) : t.overflow = s.overflow := by
  have e := congrArg State.overflow h
  exact e
theorem FreeFrame.bridgeTime {s t : State} (h : FreeFrame s t) : t.bridgeTime = s.bridgeTime := by
  have e := congrArg State.bridgeTime h
  exact e
theorem FreeFrame.freeReads {s t : State} (h : FreeFrame s t) : t.freeReads = s.freeReads := by
  have e := congrArg State.freeReads h
  exact e
theorem FreeFrame.pending {s t : State} (h : FreeFrame s t) : t.pending = s.pending := by
  have e := congrArg State.pending h
  exact e

/-- Only what the tracker, the fences and the prefetch buffers may change. -/
def TrackerFrame (s t : State) : Prop :=
  t = { s with
    slots := t.slots
    counts := t.counts
    bankA := t.bankA
    bankB := t.bankB
    drain := t.drain
    egress := t.egress
    ids := t.ids
    dispatch := t.dispatch
    fenceOrder := t.fenceOrder
    buffers := t.buffers
    lru := t.lru
  }

theorem TrackerFrame.refl (s : State) : TrackerFrame s s := rfl

theorem TrackerFrame.trans {a b c : State} (h : TrackerFrame a b) (k : TrackerFrame b c) : TrackerFrame a c :=
  Eq.trans k (congrArg (fun x : State => { x with slots := c.slots, counts := c.counts, bankA := c.bankA, bankB := c.bankB, drain := c.drain, egress := c.egress, ids := c.ids, dispatch := c.dispatch, fenceOrder := c.fenceOrder, buffers := c.buffers, lru := c.lru }) h)

theorem TrackerFrame.fold {α : Type} (f : State → α → State) (h : ∀ s x, TrackerFrame s (f s x)) (l : List α) (s : State) :
    TrackerFrame s (l.foldl f s) := fold_keeps TrackerFrame.refl TrackerFrame.trans f h l s

theorem TrackerFrame.activeBank {s t : State} (h : TrackerFrame s t) : t.activeBank = s.activeBank := by
  have e := congrArg State.activeBank h
  exact e
theorem TrackerFrame.generation {s t : State} (h : TrackerFrame s t) : t.generation = s.generation := by
  have e := congrArg State.generation h
  exact e
theorem TrackerFrame.missRecords {s t : State} (h : TrackerFrame s t) : t.missRecords = s.missRecords := by
  have e := congrArg State.missRecords h
  exact e
theorem TrackerFrame.arrivalCounter {s t : State} (h : TrackerFrame s t) : t.arrivalCounter = s.arrivalCounter := by
  have e := congrArg State.arrivalCounter h
  exact e
theorem TrackerFrame.postedIntake {s t : State} (h : TrackerFrame s t) : t.postedIntake = s.postedIntake := by
  have e := congrArg State.postedIntake h
  exact e
theorem TrackerFrame.nonPostedIntake {s t : State} (h : TrackerFrame s t) : t.nonPostedIntake = s.nonPostedIntake := by
  have e := congrArg State.nonPostedIntake h
  exact e
theorem TrackerFrame.managementIntake {s t : State} (h : TrackerFrame s t) : t.managementIntake = s.managementIntake := by
  have e := congrArg State.managementIntake h
  exact e
theorem TrackerFrame.agentCredits {s t : State} (h : TrackerFrame s t) : t.agentCredits = s.agentCredits := by
  have e := congrArg State.agentCredits h
  exact e
theorem TrackerFrame.upstreamLink {s t : State} (h : TrackerFrame s t) : t.upstreamLink = s.upstreamLink := by
  have e := congrArg State.upstreamLink h
  exact e
theorem TrackerFrame.pwqs {s t : State} (h : TrackerFrame s t) : t.pwqs = s.pwqs := by
  have e := congrArg State.pwqs h
  exact e
theorem TrackerFrame.timeout {s t : State} (h : TrackerFrame s t) : t.timeout = s.timeout := by
  have e := congrArg State.timeout h
  exact e
theorem TrackerFrame.locks {s t : State} (h : TrackerFrame s t) : t.locks = s.locks := by
  have e := congrArg State.locks h
  exact e
theorem TrackerFrame.waiting {s t : State} (h : TrackerFrame s t) : t.waiting = s.waiting := by
  have e := congrArg State.waiting h
  exact e
theorem TrackerFrame.broken {s t : State} (h : TrackerFrame s t) : t.broken = s.broken := by
  have e := congrArg State.broken h
  exact e
theorem TrackerFrame.holdLimit {s t : State} (h : TrackerFrame s t) : t.holdLimit = s.holdLimit := by
  have e := congrArg State.holdLimit h
  exact e
theorem TrackerFrame.ports {s t : State} (h : TrackerFrame s t) : t.ports = s.ports := by
  have e := congrArg State.ports h
  exact e
theorem TrackerFrame.downstreamLinks {s t : State} (h : TrackerFrame s t) : t.downstreamLinks = s.downstreamLinks := by
  have e := congrArg State.downstreamLinks h
  exact e
theorem TrackerFrame.vectors {s t : State} (h : TrackerFrame s t) : t.vectors = s.vectors := by
  have e := congrArg State.vectors h
  exact e
theorem TrackerFrame.agentMasks {s t : State} (h : TrackerFrame s t) : t.agentMasks = s.agentMasks := by
  have e := congrArg State.agentMasks h
  exact e
theorem TrackerFrame.serviceCounts {s t : State} (h : TrackerFrame s t) : t.serviceCounts = s.serviceCounts := by
  have e := congrArg State.serviceCounts h
  exact e
theorem TrackerFrame.current {s t : State} (h : TrackerFrame s t) : t.current = s.current := by
  have e := congrArg State.current h
  exact e
theorem TrackerFrame.managementMask {s t : State} (h : TrackerFrame s t) : t.managementMask = s.managementMask := by
  have e := congrArg State.managementMask h
  exact e
theorem TrackerFrame.records {s t : State} (h : TrackerFrame s t) : t.records = s.records := by
  have e := congrArg State.records h
  exact e
theorem TrackerFrame.overflow {s t : State} (h : TrackerFrame s t) : t.overflow = s.overflow := by
  have e := congrArg State.overflow h
  exact e
theorem TrackerFrame.bridgeTime {s t : State} (h : TrackerFrame s t) : t.bridgeTime = s.bridgeTime := by
  have e := congrArg State.bridgeTime h
  exact e
theorem TrackerFrame.freeReads {s t : State} (h : TrackerFrame s t) : t.freeReads = s.freeReads := by
  have e := congrArg State.freeReads h
  exact e
theorem TrackerFrame.pending {s t : State} (h : TrackerFrame s t) : t.pending = s.pending := by
  have e := congrArg State.pending h
  exact e

/-- Only what the tracker and the exclusive sequence unit's locks and waiting orders may change. -/
def LockFrame (s t : State) : Prop :=
  t = { s with
    slots := t.slots
    counts := t.counts
    bankA := t.bankA
    bankB := t.bankB
    drain := t.drain
    egress := t.egress
    ids := t.ids
    dispatch := t.dispatch
    fenceOrder := t.fenceOrder
    buffers := t.buffers
    lru := t.lru
    locks := t.locks
    waiting := t.waiting
  }

theorem LockFrame.refl (s : State) : LockFrame s s := rfl

theorem LockFrame.trans {a b c : State} (h : LockFrame a b) (k : LockFrame b c) : LockFrame a c :=
  Eq.trans k (congrArg (fun x : State => { x with slots := c.slots, counts := c.counts, bankA := c.bankA, bankB := c.bankB, drain := c.drain, egress := c.egress, ids := c.ids, dispatch := c.dispatch, fenceOrder := c.fenceOrder, buffers := c.buffers, lru := c.lru, locks := c.locks, waiting := c.waiting }) h)

theorem LockFrame.fold {α : Type} (f : State → α → State) (h : ∀ s x, LockFrame s (f s x)) (l : List α) (s : State) :
    LockFrame s (l.foldl f s) := fold_keeps LockFrame.refl LockFrame.trans f h l s

theorem LockFrame.activeBank {s t : State} (h : LockFrame s t) : t.activeBank = s.activeBank := by
  have e := congrArg State.activeBank h
  exact e
theorem LockFrame.generation {s t : State} (h : LockFrame s t) : t.generation = s.generation := by
  have e := congrArg State.generation h
  exact e
theorem LockFrame.missRecords {s t : State} (h : LockFrame s t) : t.missRecords = s.missRecords := by
  have e := congrArg State.missRecords h
  exact e
theorem LockFrame.arrivalCounter {s t : State} (h : LockFrame s t) : t.arrivalCounter = s.arrivalCounter := by
  have e := congrArg State.arrivalCounter h
  exact e
theorem LockFrame.postedIntake {s t : State} (h : LockFrame s t) : t.postedIntake = s.postedIntake := by
  have e := congrArg State.postedIntake h
  exact e
theorem LockFrame.nonPostedIntake {s t : State} (h : LockFrame s t) : t.nonPostedIntake = s.nonPostedIntake := by
  have e := congrArg State.nonPostedIntake h
  exact e
theorem LockFrame.managementIntake {s t : State} (h : LockFrame s t) : t.managementIntake = s.managementIntake := by
  have e := congrArg State.managementIntake h
  exact e
theorem LockFrame.agentCredits {s t : State} (h : LockFrame s t) : t.agentCredits = s.agentCredits := by
  have e := congrArg State.agentCredits h
  exact e
theorem LockFrame.upstreamLink {s t : State} (h : LockFrame s t) : t.upstreamLink = s.upstreamLink := by
  have e := congrArg State.upstreamLink h
  exact e
theorem LockFrame.pwqs {s t : State} (h : LockFrame s t) : t.pwqs = s.pwqs := by
  have e := congrArg State.pwqs h
  exact e
theorem LockFrame.timeout {s t : State} (h : LockFrame s t) : t.timeout = s.timeout := by
  have e := congrArg State.timeout h
  exact e
theorem LockFrame.broken {s t : State} (h : LockFrame s t) : t.broken = s.broken := by
  have e := congrArg State.broken h
  exact e
theorem LockFrame.holdLimit {s t : State} (h : LockFrame s t) : t.holdLimit = s.holdLimit := by
  have e := congrArg State.holdLimit h
  exact e
theorem LockFrame.ports {s t : State} (h : LockFrame s t) : t.ports = s.ports := by
  have e := congrArg State.ports h
  exact e
theorem LockFrame.downstreamLinks {s t : State} (h : LockFrame s t) : t.downstreamLinks = s.downstreamLinks := by
  have e := congrArg State.downstreamLinks h
  exact e
theorem LockFrame.vectors {s t : State} (h : LockFrame s t) : t.vectors = s.vectors := by
  have e := congrArg State.vectors h
  exact e
theorem LockFrame.agentMasks {s t : State} (h : LockFrame s t) : t.agentMasks = s.agentMasks := by
  have e := congrArg State.agentMasks h
  exact e
theorem LockFrame.serviceCounts {s t : State} (h : LockFrame s t) : t.serviceCounts = s.serviceCounts := by
  have e := congrArg State.serviceCounts h
  exact e
theorem LockFrame.current {s t : State} (h : LockFrame s t) : t.current = s.current := by
  have e := congrArg State.current h
  exact e
theorem LockFrame.managementMask {s t : State} (h : LockFrame s t) : t.managementMask = s.managementMask := by
  have e := congrArg State.managementMask h
  exact e
theorem LockFrame.records {s t : State} (h : LockFrame s t) : t.records = s.records := by
  have e := congrArg State.records h
  exact e
theorem LockFrame.overflow {s t : State} (h : LockFrame s t) : t.overflow = s.overflow := by
  have e := congrArg State.overflow h
  exact e
theorem LockFrame.bridgeTime {s t : State} (h : LockFrame s t) : t.bridgeTime = s.bridgeTime := by
  have e := congrArg State.bridgeTime h
  exact e
theorem LockFrame.freeReads {s t : State} (h : LockFrame s t) : t.freeReads = s.freeReads := by
  have e := congrArg State.freeReads h
  exact e
theorem LockFrame.pending {s t : State} (h : LockFrame s t) : t.pending = s.pending := by
  have e := congrArg State.pending h
  exact e

/-- Only what the exits of the posted intake and the retirement of posted writes may change. -/
def PostedFrame (s t : State) : Prop :=
  t = { s with
    slots := t.slots
    counts := t.counts
    bankA := t.bankA
    bankB := t.bankB
    drain := t.drain
    egress := t.egress
    ids := t.ids
    dispatch := t.dispatch
    fenceOrder := t.fenceOrder
    buffers := t.buffers
    lru := t.lru
    postedIntake := t.postedIntake
    pwqs := t.pwqs
    records := t.records
    overflow := t.overflow
  }

theorem PostedFrame.refl (s : State) : PostedFrame s s := rfl

theorem PostedFrame.trans {a b c : State} (h : PostedFrame a b) (k : PostedFrame b c) : PostedFrame a c :=
  Eq.trans k (congrArg (fun x : State => { x with slots := c.slots, counts := c.counts, bankA := c.bankA, bankB := c.bankB, drain := c.drain, egress := c.egress, ids := c.ids, dispatch := c.dispatch, fenceOrder := c.fenceOrder, buffers := c.buffers, lru := c.lru, postedIntake := c.postedIntake, pwqs := c.pwqs, records := c.records, overflow := c.overflow }) h)

theorem PostedFrame.fold {α : Type} (f : State → α → State) (h : ∀ s x, PostedFrame s (f s x)) (l : List α) (s : State) :
    PostedFrame s (l.foldl f s) := fold_keeps PostedFrame.refl PostedFrame.trans f h l s

theorem PostedFrame.activeBank {s t : State} (h : PostedFrame s t) : t.activeBank = s.activeBank := by
  have e := congrArg State.activeBank h
  exact e
theorem PostedFrame.generation {s t : State} (h : PostedFrame s t) : t.generation = s.generation := by
  have e := congrArg State.generation h
  exact e
theorem PostedFrame.missRecords {s t : State} (h : PostedFrame s t) : t.missRecords = s.missRecords := by
  have e := congrArg State.missRecords h
  exact e
theorem PostedFrame.arrivalCounter {s t : State} (h : PostedFrame s t) : t.arrivalCounter = s.arrivalCounter := by
  have e := congrArg State.arrivalCounter h
  exact e
theorem PostedFrame.nonPostedIntake {s t : State} (h : PostedFrame s t) : t.nonPostedIntake = s.nonPostedIntake := by
  have e := congrArg State.nonPostedIntake h
  exact e
theorem PostedFrame.managementIntake {s t : State} (h : PostedFrame s t) : t.managementIntake = s.managementIntake := by
  have e := congrArg State.managementIntake h
  exact e
theorem PostedFrame.agentCredits {s t : State} (h : PostedFrame s t) : t.agentCredits = s.agentCredits := by
  have e := congrArg State.agentCredits h
  exact e
theorem PostedFrame.upstreamLink {s t : State} (h : PostedFrame s t) : t.upstreamLink = s.upstreamLink := by
  have e := congrArg State.upstreamLink h
  exact e
theorem PostedFrame.timeout {s t : State} (h : PostedFrame s t) : t.timeout = s.timeout := by
  have e := congrArg State.timeout h
  exact e
theorem PostedFrame.locks {s t : State} (h : PostedFrame s t) : t.locks = s.locks := by
  have e := congrArg State.locks h
  exact e
theorem PostedFrame.waiting {s t : State} (h : PostedFrame s t) : t.waiting = s.waiting := by
  have e := congrArg State.waiting h
  exact e
theorem PostedFrame.broken {s t : State} (h : PostedFrame s t) : t.broken = s.broken := by
  have e := congrArg State.broken h
  exact e
theorem PostedFrame.holdLimit {s t : State} (h : PostedFrame s t) : t.holdLimit = s.holdLimit := by
  have e := congrArg State.holdLimit h
  exact e
theorem PostedFrame.ports {s t : State} (h : PostedFrame s t) : t.ports = s.ports := by
  have e := congrArg State.ports h
  exact e
theorem PostedFrame.downstreamLinks {s t : State} (h : PostedFrame s t) : t.downstreamLinks = s.downstreamLinks := by
  have e := congrArg State.downstreamLinks h
  exact e
theorem PostedFrame.vectors {s t : State} (h : PostedFrame s t) : t.vectors = s.vectors := by
  have e := congrArg State.vectors h
  exact e
theorem PostedFrame.agentMasks {s t : State} (h : PostedFrame s t) : t.agentMasks = s.agentMasks := by
  have e := congrArg State.agentMasks h
  exact e
theorem PostedFrame.serviceCounts {s t : State} (h : PostedFrame s t) : t.serviceCounts = s.serviceCounts := by
  have e := congrArg State.serviceCounts h
  exact e
theorem PostedFrame.current {s t : State} (h : PostedFrame s t) : t.current = s.current := by
  have e := congrArg State.current h
  exact e
theorem PostedFrame.managementMask {s t : State} (h : PostedFrame s t) : t.managementMask = s.managementMask := by
  have e := congrArg State.managementMask h
  exact e
theorem PostedFrame.bridgeTime {s t : State} (h : PostedFrame s t) : t.bridgeTime = s.bridgeTime := by
  have e := congrArg State.bridgeTime h
  exact e
theorem PostedFrame.freeReads {s t : State} (h : PostedFrame s t) : t.freeReads = s.freeReads := by
  have e := congrArg State.freeReads h
  exact e
theorem PostedFrame.pending {s t : State} (h : PostedFrame s t) : t.pending = s.pending := by
  have e := congrArg State.pending h
  exact e

/-- Only what an exit of a port may change once its record is written: neither the port records nor what the upstream arrivals, the sends, the settings and the steering unit own. -/
def EventFrame (s t : State) : Prop :=
  t = { s with
    slots := t.slots
    counts := t.counts
    bankA := t.bankA
    bankB := t.bankB
    drain := t.drain
    egress := t.egress
    ids := t.ids
    dispatch := t.dispatch
    fenceOrder := t.fenceOrder
    buffers := t.buffers
    lru := t.lru
    locks := t.locks
    waiting := t.waiting
    postedIntake := t.postedIntake
    pwqs := t.pwqs
    records := t.records
    overflow := t.overflow
    broken := t.broken
  }

theorem EventFrame.refl (s : State) : EventFrame s s := rfl

theorem EventFrame.trans {a b c : State} (h : EventFrame a b) (k : EventFrame b c) : EventFrame a c :=
  Eq.trans k (congrArg (fun x : State => { x with slots := c.slots, counts := c.counts, bankA := c.bankA, bankB := c.bankB, drain := c.drain, egress := c.egress, ids := c.ids, dispatch := c.dispatch, fenceOrder := c.fenceOrder, buffers := c.buffers, lru := c.lru, locks := c.locks, waiting := c.waiting, postedIntake := c.postedIntake, pwqs := c.pwqs, records := c.records, overflow := c.overflow, broken := c.broken }) h)

theorem EventFrame.fold {α : Type} (f : State → α → State) (h : ∀ s x, EventFrame s (f s x)) (l : List α) (s : State) :
    EventFrame s (l.foldl f s) := fold_keeps EventFrame.refl EventFrame.trans f h l s

theorem EventFrame.activeBank {s t : State} (h : EventFrame s t) : t.activeBank = s.activeBank := by
  have e := congrArg State.activeBank h
  exact e
theorem EventFrame.generation {s t : State} (h : EventFrame s t) : t.generation = s.generation := by
  have e := congrArg State.generation h
  exact e
theorem EventFrame.missRecords {s t : State} (h : EventFrame s t) : t.missRecords = s.missRecords := by
  have e := congrArg State.missRecords h
  exact e
theorem EventFrame.arrivalCounter {s t : State} (h : EventFrame s t) : t.arrivalCounter = s.arrivalCounter := by
  have e := congrArg State.arrivalCounter h
  exact e
theorem EventFrame.nonPostedIntake {s t : State} (h : EventFrame s t) : t.nonPostedIntake = s.nonPostedIntake := by
  have e := congrArg State.nonPostedIntake h
  exact e
theorem EventFrame.managementIntake {s t : State} (h : EventFrame s t) : t.managementIntake = s.managementIntake := by
  have e := congrArg State.managementIntake h
  exact e
theorem EventFrame.agentCredits {s t : State} (h : EventFrame s t) : t.agentCredits = s.agentCredits := by
  have e := congrArg State.agentCredits h
  exact e
theorem EventFrame.upstreamLink {s t : State} (h : EventFrame s t) : t.upstreamLink = s.upstreamLink := by
  have e := congrArg State.upstreamLink h
  exact e
theorem EventFrame.timeout {s t : State} (h : EventFrame s t) : t.timeout = s.timeout := by
  have e := congrArg State.timeout h
  exact e
theorem EventFrame.holdLimit {s t : State} (h : EventFrame s t) : t.holdLimit = s.holdLimit := by
  have e := congrArg State.holdLimit h
  exact e
theorem EventFrame.ports {s t : State} (h : EventFrame s t) : t.ports = s.ports := by
  have e := congrArg State.ports h
  exact e
theorem EventFrame.downstreamLinks {s t : State} (h : EventFrame s t) : t.downstreamLinks = s.downstreamLinks := by
  have e := congrArg State.downstreamLinks h
  exact e
theorem EventFrame.vectors {s t : State} (h : EventFrame s t) : t.vectors = s.vectors := by
  have e := congrArg State.vectors h
  exact e
theorem EventFrame.agentMasks {s t : State} (h : EventFrame s t) : t.agentMasks = s.agentMasks := by
  have e := congrArg State.agentMasks h
  exact e
theorem EventFrame.serviceCounts {s t : State} (h : EventFrame s t) : t.serviceCounts = s.serviceCounts := by
  have e := congrArg State.serviceCounts h
  exact e
theorem EventFrame.current {s t : State} (h : EventFrame s t) : t.current = s.current := by
  have e := congrArg State.current h
  exact e
theorem EventFrame.managementMask {s t : State} (h : EventFrame s t) : t.managementMask = s.managementMask := by
  have e := congrArg State.managementMask h
  exact e
theorem EventFrame.bridgeTime {s t : State} (h : EventFrame s t) : t.bridgeTime = s.bridgeTime := by
  have e := congrArg State.bridgeTime h
  exact e
theorem EventFrame.freeReads {s t : State} (h : EventFrame s t) : t.freeReads = s.freeReads := by
  have e := congrArg State.freeReads h
  exact e
theorem EventFrame.pending {s t : State} (h : EventFrame s t) : t.pending = s.pending := by
  have e := congrArg State.pending h
  exact e

/-- Only what the interrupt steering unit may change in a delivery. -/
def ServiceFrame (s t : State) : Prop :=
  t = { s with
    egress := t.egress
    vectors := t.vectors
    serviceCounts := t.serviceCounts
  }

theorem ServiceFrame.refl (s : State) : ServiceFrame s s := rfl

theorem ServiceFrame.trans {a b c : State} (h : ServiceFrame a b) (k : ServiceFrame b c) : ServiceFrame a c :=
  Eq.trans k (congrArg (fun x : State => { x with egress := c.egress, vectors := c.vectors, serviceCounts := c.serviceCounts }) h)

theorem ServiceFrame.fold {α : Type} (f : State → α → State) (h : ∀ s x, ServiceFrame s (f s x)) (l : List α) (s : State) :
    ServiceFrame s (l.foldl f s) := fold_keeps ServiceFrame.refl ServiceFrame.trans f h l s

theorem ServiceFrame.bankA {s t : State} (h : ServiceFrame s t) : t.bankA = s.bankA := by
  have e := congrArg State.bankA h
  exact e
theorem ServiceFrame.bankB {s t : State} (h : ServiceFrame s t) : t.bankB = s.bankB := by
  have e := congrArg State.bankB h
  exact e
theorem ServiceFrame.activeBank {s t : State} (h : ServiceFrame s t) : t.activeBank = s.activeBank := by
  have e := congrArg State.activeBank h
  exact e
theorem ServiceFrame.generation {s t : State} (h : ServiceFrame s t) : t.generation = s.generation := by
  have e := congrArg State.generation h
  exact e
theorem ServiceFrame.counts {s t : State} (h : ServiceFrame s t) : t.counts = s.counts := by
  have e := congrArg State.counts h
  exact e
theorem ServiceFrame.missRecords {s t : State} (h : ServiceFrame s t) : t.missRecords = s.missRecords := by
  have e := congrArg State.missRecords h
  exact e
theorem ServiceFrame.drain {s t : State} (h : ServiceFrame s t) : t.drain = s.drain := by
  have e := congrArg State.drain h
  exact e
theorem ServiceFrame.ids {s t : State} (h : ServiceFrame s t) : t.ids = s.ids := by
  have e := congrArg State.ids h
  exact e
theorem ServiceFrame.arrivalCounter {s t : State} (h : ServiceFrame s t) : t.arrivalCounter = s.arrivalCounter := by
  have e := congrArg State.arrivalCounter h
  exact e
theorem ServiceFrame.postedIntake {s t : State} (h : ServiceFrame s t) : t.postedIntake = s.postedIntake := by
  have e := congrArg State.postedIntake h
  exact e
theorem ServiceFrame.nonPostedIntake {s t : State} (h : ServiceFrame s t) : t.nonPostedIntake = s.nonPostedIntake := by
  have e := congrArg State.nonPostedIntake h
  exact e
theorem ServiceFrame.managementIntake {s t : State} (h : ServiceFrame s t) : t.managementIntake = s.managementIntake := by
  have e := congrArg State.managementIntake h
  exact e
theorem ServiceFrame.agentCredits {s t : State} (h : ServiceFrame s t) : t.agentCredits = s.agentCredits := by
  have e := congrArg State.agentCredits h
  exact e
theorem ServiceFrame.upstreamLink {s t : State} (h : ServiceFrame s t) : t.upstreamLink = s.upstreamLink := by
  have e := congrArg State.upstreamLink h
  exact e
theorem ServiceFrame.pwqs {s t : State} (h : ServiceFrame s t) : t.pwqs = s.pwqs := by
  have e := congrArg State.pwqs h
  exact e
theorem ServiceFrame.slots {s t : State} (h : ServiceFrame s t) : t.slots = s.slots := by
  have e := congrArg State.slots h
  exact e
theorem ServiceFrame.dispatch {s t : State} (h : ServiceFrame s t) : t.dispatch = s.dispatch := by
  have e := congrArg State.dispatch h
  exact e
theorem ServiceFrame.timeout {s t : State} (h : ServiceFrame s t) : t.timeout = s.timeout := by
  have e := congrArg State.timeout h
  exact e
theorem ServiceFrame.fenceOrder {s t : State} (h : ServiceFrame s t) : t.fenceOrder = s.fenceOrder := by
  have e := congrArg State.fenceOrder h
  exact e
theorem ServiceFrame.buffers {s t : State} (h : ServiceFrame s t) : t.buffers = s.buffers := by
  have e := congrArg State.buffers h
  exact e
theorem ServiceFrame.lru {s t : State} (h : ServiceFrame s t) : t.lru = s.lru := by
  have e := congrArg State.lru h
  exact e
theorem ServiceFrame.locks {s t : State} (h : ServiceFrame s t) : t.locks = s.locks := by
  have e := congrArg State.locks h
  exact e
theorem ServiceFrame.waiting {s t : State} (h : ServiceFrame s t) : t.waiting = s.waiting := by
  have e := congrArg State.waiting h
  exact e
theorem ServiceFrame.broken {s t : State} (h : ServiceFrame s t) : t.broken = s.broken := by
  have e := congrArg State.broken h
  exact e
theorem ServiceFrame.holdLimit {s t : State} (h : ServiceFrame s t) : t.holdLimit = s.holdLimit := by
  have e := congrArg State.holdLimit h
  exact e
theorem ServiceFrame.ports {s t : State} (h : ServiceFrame s t) : t.ports = s.ports := by
  have e := congrArg State.ports h
  exact e
theorem ServiceFrame.downstreamLinks {s t : State} (h : ServiceFrame s t) : t.downstreamLinks = s.downstreamLinks := by
  have e := congrArg State.downstreamLinks h
  exact e
theorem ServiceFrame.agentMasks {s t : State} (h : ServiceFrame s t) : t.agentMasks = s.agentMasks := by
  have e := congrArg State.agentMasks h
  exact e
theorem ServiceFrame.current {s t : State} (h : ServiceFrame s t) : t.current = s.current := by
  have e := congrArg State.current h
  exact e
theorem ServiceFrame.managementMask {s t : State} (h : ServiceFrame s t) : t.managementMask = s.managementMask := by
  have e := congrArg State.managementMask h
  exact e
theorem ServiceFrame.records {s t : State} (h : ServiceFrame s t) : t.records = s.records := by
  have e := congrArg State.records h
  exact e
theorem ServiceFrame.overflow {s t : State} (h : ServiceFrame s t) : t.overflow = s.overflow := by
  have e := congrArg State.overflow h
  exact e
theorem ServiceFrame.bridgeTime {s t : State} (h : ServiceFrame s t) : t.bridgeTime = s.bridgeTime := by
  have e := congrArg State.bridgeTime h
  exact e
theorem ServiceFrame.freeReads {s t : State} (h : ServiceFrame s t) : t.freeReads = s.freeReads := by
  have e := congrArg State.freeReads h
  exact e
theorem ServiceFrame.pending {s t : State} (h : ServiceFrame s t) : t.pending = s.pending := by
  have e := congrArg State.pending h
  exact e

theorem FreeFrame.toTracker {s t : State} (h : FreeFrame s t) : TrackerFrame s t := by
  have e := congrArg (fun x : State => { x with dispatch := t.dispatch, fenceOrder := t.fenceOrder, buffers := t.buffers, lru := t.lru }) h
  exact e

theorem TrackerFrame.toLock {s t : State} (h : TrackerFrame s t) : LockFrame s t := by
  have e := congrArg (fun x : State => { x with locks := t.locks, waiting := t.waiting }) h
  exact e

theorem TrackerFrame.toPosted {s t : State} (h : TrackerFrame s t) : PostedFrame s t := by
  have e := congrArg (fun x : State => { x with postedIntake := t.postedIntake, pwqs := t.pwqs, records := t.records, overflow := t.overflow }) h
  exact e

theorem LockFrame.toEvent {s t : State} (h : LockFrame s t) : EventFrame s t := by
  have e := congrArg (fun x : State => { x with postedIntake := t.postedIntake, pwqs := t.pwqs, records := t.records, overflow := t.overflow, broken := t.broken }) h
  exact e

theorem PostedFrame.toEvent {s t : State} (h : PostedFrame s t) : EventFrame s t := by
  have e := congrArg (fun x : State => { x with locks := t.locks, waiting := t.waiting, broken := t.broken }) h
  exact e

/-! ## Generations, drains and slots -/

theorem copyActiveBank_frame (s : State) : FreeFrame s (copyActiveBank s) := by unfold copyActiveBank; split <;> rfl

theorem endDrain_frame (s : State) : FreeFrame s (endDrain s) := by
  unfold endDrain copyActiveBank
  split
  · rfl
  · split <;> split <;> rfl

theorem endDrainIfDone_frame (s : State) : FreeFrame s (endDrainIfDone s) := by
  unfold endDrainIfDone
  split
  · rfl
  · split
    · exact endDrain_frame s
    · rfl

theorem countUp_frame (g : Generation) (s : State) : FreeFrame s (countUp g s) := rfl

theorem countDown_frame (g : Generation) (s : State) : FreeFrame s (countDown g s) := by
  have h : FreeFrame s { s with counts := poke s.counts (genIndex g) (countOf g s - 1) } := rfl
  unfold countDown
  dsimp only
  split
  · exact h
  · split
    · exact h.trans (endDrainIfDone_frame _)
    · exact h

theorem putUse_frame (i : SlotId) (u : Option SlotUse) (s : State) : FreeFrame s (putUse i u s) := rfl

theorem appendCompletion_frame (c : Completion) (s : State) : FreeFrame s (appendCompletion c s) := rfl

theorem appendEgress_frame (x : EgressPacket) (s : State) : FreeFrame s (appendEgress x s) := rfl

theorem reply_frame (u : SlotUse) (st : Status) (data : List Byte) (s : State) : FreeFrame s (reply u st data s) := by
  unfold reply; split
  · rfl
  · rfl

theorem freeSlot_frame (i : SlotId) (s : State) : FreeFrame s (freeSlot i s) := by
  unfold freeSlot
  split
  · rfl
  · exact (putUse_frame i none s).trans (countDown_frame _ _)

theorem answerSlot_frame (i : SlotId) (st : Status) (data : List Byte) (s : State) : FreeFrame s (answerSlot i st data s) := by
  unfold answerSlot
  split
  · rfl
  · exact (reply_frame _ st data s).trans (freeSlot_frame i _)

/-! ## The tracker and the buffers -/

theorem putBuffer_frame (b : BufferId) (x : Buffer) (s : State) : TrackerFrame s (putBuffer b x s) := rfl

theorem touchBuffer_frame (b : BufferId) (s : State) : TrackerFrame s (touchBuffer b s) := rfl

theorem answerFollowersDone_frame (block : List Byte) (l : List SlotId) (s : State) :
    FreeFrame s (answerFollowersDone block l s) := by
  unfold answerFollowersDone
  refine FreeFrame.fold _ (fun s i => ?_) l s
  split
  · exact answerSlot_frame i _ _ s
  · rfl

theorem answerFollowersFailed_frame (st : Status) (l : List SlotId) (s : State) :
    FreeFrame s (answerFollowersFailed st l s) := by
  unfold answerFollowersFailed
  refine FreeFrame.fold _ (fun s i => ?_) l s
  split
  · exact answerSlot_frame i _ _ s
  · rfl

theorem endFillDone_frame (b : BufferId) (block : List Byte) (s : State) : TrackerFrame s (endFillDone b block s) := by
  unfold endFillDone
  split
  · exact (answerFollowersDone_frame block _ s).toTracker.trans rfl
  · exact (answerFollowersDone_frame block _ s).toTracker.trans rfl
  · rfl
  · rfl

theorem endFillFailed_frame (b : BufferId) (st : Status) (s : State) : TrackerFrame s (endFillFailed b st s) := by
  unfold endFillFailed
  split
  · exact (putBuffer_frame b .free s).trans (answerFollowersFailed_frame st _ _).toTracker
  · exact (putBuffer_frame b .free s).trans (answerFollowersFailed_frame st _ _).toTracker
  · rfl
  · rfl

theorem endLedFill_frame (u : SlotUse) (st : Status) (s : State) : TrackerFrame s (endLedFill u st s) := by
  unfold endLedFill
  split
  · exact endFillFailed_frame _ st s
  · rfl
  · rfl

theorem failSlot_frame (i : SlotId) (st : Status) (s : State) : TrackerFrame s (failSlot i st s) := by
  unfold failSlot
  split
  · rfl
  · exact (answerSlot_frame i st _ s).toTracker.trans (endLedFill_frame _ st _)

theorem enterReady_frame (i : SlotId) (s : State) : TrackerFrame s (enterReady i s) := by
  unfold enterReady; split <;> rfl

theorem followFill_frame (b : BufferId) (i : SlotId) (u : SlotUse) (s : State) : TrackerFrame s (followFill b i u s) := by
  unfold followFill
  dsimp only
  split <;> rfl

theorem leadFill_frame (b : BufferId) (i : SlotId) (u : SlotUse) (s : State) : TrackerFrame s (leadFill b i u s) := by
  unfold leadFill
  refine TrackerFrame.trans ?_ (enterReady_frame i _)
  all_goals exact rfl

theorem readFromBuffers_frame (i : SlotId) (u : SlotUse) (s : State) : TrackerFrame s (readFromBuffers i u s) := by
  unfold readFromBuffers
  split
  · exact (touchBuffer_frame _ s).trans (answerSlot_frame i _ _ _).toTracker
  · split
    · exact followFill_frame _ i u s
    · split
      · exact enterReady_frame i s
      · split
        · exact leadFill_frame _ i u s
        · exact enterReady_frame i s

theorem readyPoint_frame (i : SlotId) (s : State) : TrackerFrame s (readyPoint i s) := by
  unfold readyPoint
  split
  · rfl
  · split
    · exact failSlot_frame i _ s
    · split
      · exact enterReady_frame i s
      · split
        · exact readFromBuffers_frame i _ s
        · exact enterReady_frame i s

theorem enterFenceWait_frame (i : SlotId) (u : SlotUse) (s : State) : TrackerFrame s (enterFenceWait i u s) := rfl

theorem meetFence_frame (i : SlotId) (s : State) : TrackerFrame s (meetFence i s) := by
  unfold meetFence
  split
  · rfl
  · split
    · exact enterFenceWait_frame i _ s
    · exact readyPoint_frame i s

theorem withdrawBlock_frame (key : BufferKey) (s : State) : TrackerFrame s (withdrawBlock key s) := rfl

theorem withdrawAll_frame (s : State) : TrackerFrame s (withdrawAll s) := rfl

theorem freeValidBuffers_frame (p : Port) (s : State) : TrackerFrame s (freeValidBuffers p s) := rfl

theorem signalWrite_frame (k : SlotKind) (r : DecodeRecord) (s : State) : TrackerFrame s (signalWrite k r s) := by
  unfold signalWrite; split <;> rfl

/-! ## Locks and waiting orders -/

theorem putLock_frame (p : Port) (l : Lock) (s : State) : LockFrame s (putLock p l s) := rfl

theorem leaveLists_frame (i : SlotId) (u : SlotUse) (s : State) : LockFrame s (leaveLists i u s) := by
  unfold leaveLists
  repeat' split
  all_goals rfl

theorem enterLockWait_frame (i : SlotId) (s : State) : LockFrame s (enterLockWait i s) := by
  unfold enterLockWait; split <;> rfl

theorem moveToLockWait_frame (i : SlotId) (s : State) : LockFrame s (moveToLockWait i s) := by
  unfold moveToLockWait
  split
  · rfl
  · exact (leaveLists_frame i _ s).trans (enterLockWait_frame i _)

theorem claimLock_frame (p : Port) (i : SlotId) (u : SlotUse) (s : State) : LockFrame s (claimLock p i u s) := by
  unfold claimLock
  exact (putLock_frame p _ s).trans (LockFrame.fold _ (fun s j => moveToLockWait_frame j s) _ _)

theorem releaseFromWaiting_frame (p : Port) (i : SlotId) (s : State) : LockFrame s (releaseFromWaiting p i s) := by
  unfold releaseFromWaiting
  refine LockFrame.trans ?_ (meetFence_frame i _).toLock
  all_goals exact rfl

theorem claimFromWaiting_frame (p : Port) (i : SlotId) (u : SlotUse) (s : State) : LockFrame s (claimFromWaiting p i u s) := by
  unfold claimFromWaiting
  refine LockFrame.trans ?_ ((claimLock_frame p i u _).trans (meetFence_frame i _).toLock)
  all_goals exact rfl

theorem processOrder_frame {reopen : State → State} (h : ∀ s, LockFrame s (reopen s)) (p : Port) (l : List SlotId) (s : State) :
    LockFrame s (processOrder reopen p l s) := by
  induction l generalizing s with
  | nil => exact LockFrame.refl s
  | cons i rest ih =>
    unfold processOrder
    split
    · exact ih s
    · split
      · dsimp only
        split
        · exact (claimFromWaiting_frame p i _ s).trans (h _)
        · exact (claimFromWaiting_frame p i _ s).trans (LockFrame.fold _ (fun s j => releaseFromWaiting_frame p j s) _ _)
      · exact (releaseFromWaiting_frame p i s).trans (ih _)

theorem openLockWithin_frame (n : Nat) (p : Port) (s : State) : LockFrame s (openLockWithin n p s) := by
  induction n generalizing s with
  | zero => exact putLock_frame p _ s
  | succ n ih =>
    unfold openLockWithin
    exact (putLock_frame p _ s).trans (processOrder_frame ih p _ _)

theorem openLock_frame (p : Port) (s : State) : LockFrame s (openLock p s) := openLockWithin_frame 64 p s

theorem lockActs_frame (i : SlotId) (p : Port) (st : Status) (s : State) : LockFrame s (lockActs i p st s) := by
  unfold lockActs
  split
  · split
    · split
      · rfl
      · exact openLock_frame p s
    · rfl
  · rfl
  · rfl

theorem takeTurn_frame (i : SlotId) (s : State) : LockFrame s (takeTurn i s) := by
  unfold takeTurn
  split
  · rfl
  · split
    · split
      · exact (readyPoint_frame i s).toLock.trans (lockActs_frame i _ _ _)
      · exact (readyPoint_frame i s).toLock
    · rfl

theorem testFences_frame (others : List SlotId) (s : State) : LockFrame s (testFences others s) := by
  unfold testFences
  refine LockFrame.trans ?_ (LockFrame.fold _ (fun s i => takeTurn_frame i s) _ _)
  all_goals exact rfl

theorem firstState_frame (i : SlotId) (u : SlotUse) (s : State) : LockFrame s (firstState i u s) := by
  unfold firstState
  split
  · exact enterLockWait_frame i s
  · split
    · exact (claimLock_frame _ i u s).trans (meetFence_frame i _).toLock
    · exact (meetFence_frame i s).toLock

theorem allocate_frame (e : NonPostedEntry) (k : SlotKind) (data : List Byte) (r : DecodeRecord) (s : State) :
    LockFrame s (allocate e k data r s) := by
  unfold allocate
  split
  · rfl
  · refine LockFrame.trans ?_
      ((countUp_frame r.generation _).toTracker.toLock.trans
        ((signalWrite_frame k r _).toLock.trans (firstState_frame _ _ _)))
    all_goals exact rfl

/-! ## The posted intake, the queues and the port exit -/

theorem storeRecord_frame (x : RecordBody) (s : State) : PostedFrame s (storeRecord x s) := by
  unfold storeRecord; split <;> rfl

theorem enqueuePosted_frame (e : PostedEntry) (r : DecodeRecord) (s : State) : PostedFrame s (enqueuePosted e r s) := by
  unfold enqueuePosted
  rfl

theorem takePosted_frame (e : PostedEntry) (d : Decoded) (s : State) : PostedFrame s (takePosted e d s) := by
  unfold takePosted
  repeat' split
  all_goals first
    | exact storeRecord_frame _ s
    | exact enqueuePosted_frame e _ s
    | exact PostedFrame.refl s

theorem exitPostedHeads_frame (l : List PostedEntry) (s : State) : PostedFrame s (exitPostedHeads l s) := by
  induction l generalizing s with
  | nil => exact PostedFrame.refl s
  | cons e rest ih =>
    unfold exitPostedHeads
    dsimp only
    split
    · have h1 : PostedFrame s { s with postedIntake := rest } := rfl
      have h2 := takePosted_frame e (decode .posted e.agent e.address e.length s) { s with postedIntake := rest }
      exact (h1.trans h2).trans (PostedFrame.trans (appendEgress_frame _ _).toTracker.toPosted (ih _))
    · exact PostedFrame.refl s

theorem lookUpHead_frame (s : State) : PostedFrame s (lookUpHead s) := exitPostedHeads_frame _ s

theorem exitHeadsAndTest_frame (s : State) : EventFrame s (exitHeadsAndTest s) := by
  unfold exitHeadsAndTest
  dsimp only
  split
  · exact (lookUpHead_frame s).toEvent
  · exact (lookUpHead_frame s).toEvent.trans (testFences_frame [] _).toEvent

theorem discardQueue_frame (p : Port) (c : DiscardCause) (s : State) : PostedFrame s (discardQueue p c s) := by
  have h1 : PostedFrame s { s with pwqs := poke s.pwqs p { peek s.pwqs p with entries := [] } } := rfl
  have h := h1.trans
    (PostedFrame.fold (fun (s : State) (e : QueueEntry) => countDown e.generation s)
      (fun s e => (countDown_frame e.generation s).toTracker.toPosted) (peek s.pwqs p).entries _)
  unfold discardQueue
  dsimp only
  split
  · exact h
  · exact h.trans (storeRecord_frame _ _)

theorem retire_frame (p : Port) (e : QueueEntry) (s : State) : EventFrame s (retire p e s) := by
  unfold retire
  refine EventFrame.trans ?_
    ((countDown_frame e.generation _).toTracker.toPosted.toEvent.trans
      ((lookUpHead_frame _).toEvent.trans (testFences_frame [] _).toEvent))
  all_goals exact rfl

theorem breakLock_frame (p : Port) (c : BreakCause) (s : State) : EventFrame s (breakLock p c s) := by
  unfold breakLock
  split
  · rfl
  · exact EventFrame.trans (putLock_frame p _ s).toEvent (storeRecord_frame _ _).toEvent
  · refine EventFrame.trans ?_ (storeRecord_frame _ _).toEvent
    all_goals exact rfl

theorem meetFenceAtExit_frame (i : SlotId) (s : State) : TrackerFrame s (meetFenceAtExit i s) := by
  unfold meetFenceAtExit
  split
  · rfl
  · split <;> rfl

theorem breakAtExit_frame (p : Port) (c : BreakCause) (s : State) : EventFrame s (breakAtExit p c s) := by
  unfold breakAtExit
  split
  · refine (breakLock_frame p c s).trans
      (EventFrame.trans ?_ (EventFrame.fold _ (fun s i => (meetFenceAtExit_frame i s).toLock.toEvent) _ _))
    all_goals exact rfl
  · rfl

theorem lostAtExit_frame (i : SlotId) (s : State) : LockFrame s (lostAtExit i s) := by
  unfold lostAtExit
  split
  · rfl
  · exact (leaveLists_frame i _ s).trans (failSlot_frame i _ _).toLock

theorem answerSlotsAtExit_frame (p : Port) (s : State) : LockFrame s (answerSlotsAtExit p s) := by
  unfold answerSlotsAtExit
  exact (LockFrame.fold _ (fun s i => lostAtExit_frame i s) _ s).trans
    (LockFrame.fold _ (fun s i => (freeSlot_frame i s).toTracker.toLock) _ _)

theorem markWaiting_frame (p : Port) (s : State) : FreeFrame s { s with slots := s.slots.map (markWaiting p) } := rfl

theorem portExit_frame (p : Port) (c : ExitCauses) (s : State) : EventFrame s (portExit p c s) := by
  have h1 := (discardQueue_frame p c.discard s).toEvent
  have h2 := h1.trans (freeValidBuffers_frame p _).toLock.toEvent
  have h3 := h2.trans (markWaiting_frame p _).toTracker.toLock.toEvent
  have h4 := h3.trans (breakAtExit_frame p c.lock _)
  have h5 := h4.trans (answerSlotsAtExit_frame p _).toEvent
  have h6 := h5.trans (lookUpHead_frame _).toEvent
  exact h6.trans (testFences_frame _ _).toEvent

/-- The record of a port that has failed with a cause (R136). -/
def failedRecord (c : FaultCause) (r : PortRecord) : PortRecord :=
  { r with
    state := .failed, postedCredit := 0, nonPostedCredit := 0, postedGrant := 0, nonPostedGrant := 0, lastFault := some c }

theorem failPort_eq (p : Port) (c : FaultCause) (x : Option SlotId) (s : State) :
    failPort p c x s =
      portExit p ExitCauses.failure
        (storeRecord (.portFault p (peek s.ports p).state c x) (putPort p (failedRecord c (peek s.ports p)) s)) := by
  simp [failPort, leaveService, putPort, failedRecord, poke_poke]

/-- Once the failed port's record is written, a failure changes only what a port exit may. -/
theorem failPort_frame (p : Port) (c : FaultCause) (x : Option SlotId) (s : State) :
    EventFrame (putPort p (failedRecord c (peek s.ports p)) s) (failPort p c x s) := by
  rw [failPort_eq]
  exact (storeRecord_frame _ _).toEvent.trans (portExit_frame p _ _)

/-! ## Interrupt steering -/

theorem deliver_frame (v : VectorId) (a : Agent) (s : State) : ServiceFrame s (deliver v a s) := rfl

theorem steer_frame (v : VectorId) (s : State) : ServiceFrame s (steer v s) := by
  unfold steer
  dsimp only
  split
  · split
    · exact deliver_frame v _ s
    · rfl
  · rfl

theorem raiseVector_frame (v : VectorId) (s : State) : ServiceFrame s (raiseVector v s) := by
  unfold raiseVector
  split
  · refine ServiceFrame.trans ?_ (steer_frame v _)
    all_goals exact rfl
  · rfl
  · rfl

theorem resteer_frame (s : State) : ServiceFrame s (resteer s) := ServiceFrame.fold _ (fun s v => steer_frame v s) _ s

theorem endService_frame (v : VectorId) (a : Agent) (s : State) : ServiceFrame s (endService v a s) := by
  unfold endService
  refine ServiceFrame.trans ?_ (steer_frame v _)
  all_goals exact rfl

theorem raiseOnFirstRecord_frame (s t : State) : ServiceFrame t (raiseOnFirstRecord s t) := by
  unfold raiseOnFirstRecord
  split
  · exact raiseVector_frame 0 t
  · rfl

end Sys2Proof.Machine
end

