-- ==== Sys2Proof/Laws/Operations.lean ====
section
/-! SUPPORT. What the shared operations answer, said once: reading fields of packets, records, arrival-number positions, locks and
fences, buffers, the lanes, completion pieces, interrupt choices and execution ends. -/

namespace Sys2Proof.Machine

/-! ## Fields that hold a number in range -/

theorem agentOfField_ofNat (a : Agent) : agentOfField (BitVec.ofNat 4 a.val) = some a := by
  revert a; decide

theorem tagOfField_ofNat (t : Tag) : tagOfField (BitVec.ofNat 6 t.val) = some t := by
  revert t; decide

theorem vectorOfField_ofNat (v : VectorId) : vectorOfField (BitVec.ofNat 7 v.val) = some v := by
  revert v; decide

theorem windowOfIndex_ofNat (i : WindowId) : windowOfIndex (BitVec.ofNat 6 i.val) = some i := by
  revert i; decide

theorem portOfIndex_ofNat (p : Port) : portOfIndex (BitVec.ofNat 6 p.val) = some p := by
  revert p; decide

theorem vectorOfIndex_ofNat (v : VectorId) : vectorOfIndex (BitVec.ofNat 6 v.val) = v := by
  revert v; decide

theorem agentOfField_none {f : BitVec 4} (h : 8 ≤ f.toNat) : agentOfField f = none := by
  simp [agentOfField]; omega

theorem tagOfField_none {f : BitVec 6} (h : 32 ≤ f.toNat) : tagOfField f = none := by
  simp [tagOfField]; omega

theorem vectorOfField_none {f : BitVec 7} (h : 64 ≤ f.toNat) : vectorOfField f = none := by
  simp [vectorOfField]; omega

theorem targetOfCode_targetCode (t : Target) : targetOfCode (targetCode t) = some t := by
  cases t with
  | sink => decide
  | port p => revert p; decide

theorem modeOfCode_modeCode (m : SteerMode) : modeOfCode (modeCode m) = some m := by
  cases m <;> decide

theorem agentOfCode_agentCode (a : Agent) : agentOfCode (agentCode a) = a := by
  revert a; decide

/-! ## Addresses -/

theorem pageAddress_toNat (p : Page) : (pageAddress p).toNat = p.toNat * 4096 := by
  have h : (p ++ 0#12).toNat = p.toNat <<< 12 ||| (0#12).toNat := BitVec.toNat_append p 0#12
  rw [pageAddress, h, BitVec.toNat_ofNat, Nat.zero_mod, Nat.or_zero, Nat.shiftLeft_eq]

theorem blockOf_toNat (a : Addr) : (blockOf a).toNat = a.toNat / 256 * 256 := by
  have h : (a.extractLsb' 8 32 ++ 0#8).toNat = (a.extractLsb' 8 32).toNat <<< 8 ||| (0#8).toNat := BitVec.toNat_append _ 0#8
  rw [blockOf, h, BitVec.toNat_ofNat, Nat.zero_mod, Nat.or_zero, Nat.shiftLeft_eq, BitVec.extractLsb'_toNat,
    Nat.shiftRight_eq_div_pow]
  have := a.isLt
  omega

theorem downstreamAddress_toNat (w : WindowEntry) (a : Addr) :
    (downstreamAddress w a).toNat = (a.toNat + 2 ^ 40 - w.base.toNat * 4096 + w.downBase.toNat * 4096) % 2 ^ 40 := by
  have hb := w.base.isLt
  have ha := a.isLt
  rw [downstreamAddress, BitVec.toNat_add, BitVec.toNat_sub, pageAddress_toNat, pageAddress_toNat]
  omega

theorem pageOf_toNat (a : Addr) : (pageOf a).toNat = a.toNat / 4096 := by
  rw [pageOf, BitVec.extractLsb'_toNat, Nat.shiftRight_eq_div_pow]
  have := a.isLt
  omega

/-! ## Records and the raise of vector 0 -/

theorem raiseOnFirstRecord_same {s t : State} (h : t.records = s.records) : raiseOnFirstRecord s t = t := by
  simp [raiseOnFirstRecord, h]

theorem raiseOnFirstRecord_nonempty {s t : State} (h : s.records ≠ []) : raiseOnFirstRecord s t = t := by
  simp [raiseOnFirstRecord, h]

theorem storeRecord_room {b : RecordBody} {s : State} (h : s.records.length < 32) :
    storeRecord b s = { s with records := s.records ++ [{ time := s.bridgeTime, body := b }] } := by
  simp [storeRecord, Config.recordQueueSize, h]

theorem storeRecord_full {b : RecordBody} {s : State} (h : 32 ≤ s.records.length) : storeRecord b s = { s with overflow := true } := by
  have : ¬ s.records.length < 32 := by omega
  simp [storeRecord, Config.recordQueueSize, this]

/-- Storing a record changes the records and the overflow flag alone. -/
theorem storeRecord_keeps (b : RecordBody) (s : State) :
    storeRecord b s = { s with records := (storeRecord b s).records, overflow := (storeRecord b s).overflow } := by
  unfold storeRecord; split <;> rfl

/-! ## Slots and answers -/

@[simp] theorem slotUse_putUse_same (i : SlotId) (u : Option SlotUse) (s : State) : slotUse (putUse i u s) i = u := by
  simp [slotUse, putUse]

theorem slotUse_putUse_ne {i j : SlotId} (u : Option SlotUse) (s : State) (h : i ≠ j) :
    slotUse (putUse i u s) j = slotUse s j := by
  simp [slotUse, putUse, peek_poke_ne, h]

/-- A slot's new record with the old arrival number changes no arrival number. -/
theorem arrivalOf_putUse {i : SlotId} {u v : SlotUse} {s : State} (hu : slotUse s i = some u) (h : v.arrival = u.arrival) :
    arrivalOf (putUse i (some v) s) = arrivalOf s := by
  funext j
  by_cases hj : i = j
  · subst hj; simp [arrivalOf, hu, h]
  · simp [arrivalOf, slotUse_putUse_ne _ _ hj]

theorem failData_eq (k : SlotKind) (n : Nat) :
    failData k n = if k = .read ∨ k = .exclusiveRead then List.replicate n (0xFF : Byte) else [] := by
  cases k <;> simp [failData, returnsData]

theorem slotUse_reply (u : SlotUse) (st : Status) (data : List Byte) (s : State) (i : SlotId) :
    slotUse (reply u st data s) i = slotUse s i := by
  unfold reply; split <;> rfl

/-- R88, R137: what `expiryStatus` says of a slot that waits in FENCE_WAIT, and of any other. -/
theorem expiryStatus_fenceWait {u : SlotUse} (h : u.state = .fenceWait) :
    expiryStatus u = if u.exited = true then .portLost else .expired := by
  simp [expiryStatus, h]

theorem expiryStatus_other {u : SlotUse} (h : u.state ≠ .fenceWait) : expiryStatus u = .expired := by
  simp [expiryStatus, h]

/-! ## The oldest entry -/

/-- R26: of two numbers, not each is earlier than the other. -/
theorem earlier_asymm {a b : Arrival} (h : earlier a b = true) : earlier b a = false := by
  have h : 0 < (b - a).toInt := of_decide_eq_true h
  have hlt := BitVec.toInt_lt (x := b - a)
  have hneg : a - b = -(b - a) := by simp
  refine decide_eq_false ?_
  rw [hneg, BitVec.toInt_neg]
  generalize (b - a).toInt = z at h hlt
  simp only [Nat.add_one_sub_one] at hlt
  rw [Int.bmod_eq_of_le (by simp; omega) (by simp; omega)]
  omega

/-- An entry that is earlier than every other is the oldest of them (R26, R32). -/
theorem foldl_olderEntry {rest : List NonPostedEntry} : ∀ {first e : NonPostedEntry}, e ∈ first :: rest →
    (∀ x ∈ first :: rest, x ≠ e → earlier e.arrival x.arrival = true) → rest.foldl olderEntry first = e := by
  induction rest with
  | nil =>
    intro first e h _
    exact (List.mem_singleton.1 h).symm
  | cons b rest ih =>
    intro first e h hm
    have hstep : olderEntry first b = first ∨ olderEntry first b = b := by unfold olderEntry; split <;> simp
    refine ih ?_ (fun x hx hxe => hm x ?_ hxe)
    · by_cases hf : first = e
      · subst hf
        have : olderEntry first b = first := by
          by_cases hb : b = first
          · subst hb; unfold olderEntry; split <;> rfl
          · unfold olderEntry; rw [earlier_asymm (hm b (by simp) hb)]; rfl
        simp [this]
      · by_cases hb : b = e
        · subst hb
          have : olderEntry first b = b := by unfold olderEntry; rw [hm first (by simp) hf]; rfl
          simp [this]
        · have : e ∈ rest := by
            rcases List.mem_cons.1 h with h | h
            · exact absurd h.symm hf
            · rcases List.mem_cons.1 h with h | h
              · exact absurd h.symm hb
              · exact h
          exact List.mem_cons_of_mem _ this
    · rcases List.mem_cons.1 hx with h | h
      · rcases hstep with k | k <;> simp [h, k]
      · simp [h]

/-! ## Arrival-number positions -/

/-- R62, R82, R110: a slot goes before the first one that R26 makes later than it, and the others keep their order. -/
theorem insertByArrival_eq (number : SlotId → Arrival) (i : SlotId) (list : List SlotId) :
    insertByArrival number i list =
      list.takeWhile (fun j => !earlier (number i) (number j)) ++ i :: list.dropWhile (fun j => !earlier (number i) (number j)) := by
  induction list with
  | nil => rfl
  | cons j rest ih => cases h : earlier (number i) (number j) <;> simp [insertByArrival, h, ih]

theorem arrivalOf_some {i : SlotId} {u : SlotUse} {s : State} (h : slotUse s i = some u) : arrivalOf s i = u.arrival := by
  simp [arrivalOf, h]

/-! ## Locks and fences -/

/-- R58 case 1, R116. -/
theorem waitsForLock_iff (u : SlotUse) (s : State) :
    waitsForLock u s = true ↔
      ∃ owner claim,
        ((∃ slot, peek s.locks u.port = .claimed owner claim slot) ∨ ∃ expiry, peek s.locks u.port = .held owner claim expiry) ∧
          owner ≠ u.agent ∧ (0 < (u.arrival - claim).toInt ∨ u.kind = .exclusiveRead) := by
  unfold waitsForLock earlier
  cases peek s.locks u.port <;> simp [lockOwner, lockArrival, -BitVec.toInt_sub]

theorem portInService_iff (p : Port) (s : State) :
    portInService p s = true ↔ (peek s.ports p).state = .waiting ∨ (peek s.ports p).state = .active := by
  unfold portInService
  cases (peek s.ports p).state <;> simp

theorem holdsPort_iff (a : Agent) (p : Port) (s : State) :
    holdsPort a p s = true ↔ ∃ arrival expiry, peek s.locks p = .held a arrival expiry := by
  unfold holdsPort
  cases peek s.locks p <;> simp

theorem ownsPort_iff (a : Agent) (p : Port) (s : State) :
    ownsPort a p s = true ↔
      (∃ arrival expiry, peek s.locks p = .held a arrival expiry) ∨ ∃ arrival slot, peek s.locks p = .claimed a arrival slot := by
  unfold ownsPort
  cases peek s.locks p <;> simp [lockOwner]

theorem ownsLock_iff (a : Agent) (s : State) :
    ownsLock a s = true ↔
      ∃ p, (∃ arrival expiry, peek s.locks p = .held a arrival expiry) ∨
        ∃ arrival slot, peek s.locks p = .claimed a arrival slot := by
  simp [ownsLock, allPorts, ownsPort_iff]

/-- R110: the two ways to have a sequence in progress. -/
theorem sequenceInProgress_iff (a : Agent) (s : State) :
    sequenceInProgress a s = true ↔
      (∃ p, (∃ arrival expiry, peek s.locks p = .held a arrival expiry) ∨
        ∃ arrival slot, peek s.locks p = .claimed a arrival slot) ∨
      ∃ j u, slotUse s j = some u ∧ u.state = .lockWait ∧ u.kind = .exclusiveRead ∧ u.agent = a := by
  unfold sequenceInProgress exclusiveReadWaiting
  rw [Bool.or_eq_true, ownsLock_iff, List.any_eq_true]
  refine or_congr Iff.rfl ⟨?_, ?_⟩
  · rintro ⟨j, _, h⟩
    cases hu : slotUse s j with
    | none => simp [hu] at h
    | some u =>
      simp only [hu, Bool.and_eq_true, decide_eq_true_eq] at h
      exact ⟨j, u, hu, h.1.1, h.1.2, h.2⟩
  · rintro ⟨j, u, hu, h1, h2, h3⟩
    exact ⟨j, List.mem_finRange j, by simp [hu, h1, h2, h3]⟩

/-- R46. -/
theorem heldByLock_iff (p : Port) (arrival : Arrival) (s : State) :
    heldByLock p arrival s = true ↔
      ∃ owner claim,
        ((∃ slot, peek s.locks p = .claimed owner claim slot) ∨ ∃ expiry, peek s.locks p = .held owner claim expiry) ∧
          0 < (arrival - claim).toInt := by
  unfold heldByLock earlier
  cases peek s.locks p <;> simp [lockArrival, -BitVec.toInt_sub]

theorem isFenced_iff (u : SlotUse) :
    isFenced u = true ↔ u.cls = .strict ∨ u.kind = .exclusiveRead ∨ u.kind = .exclusiveWrite := by
  cases h : u.kind <;> simp [isFenced, h]

/-- R80. -/
theorem fenceClear_eq_false_iff (u : SlotUse) (s : State) :
    fenceClear u s = false ↔
      (∃ e ∈ s.postedIntake, 0 < (u.arrival - e.arrival).toInt) ∨
        ∃ p, ∃ e ∈ (peek s.pwqs p).entries, e.domain = u.domain ∧ 0 < (u.arrival - e.arrival).toInt := by
  rw [← Bool.not_eq_true]
  simp only [fenceClear, earlier, allPorts, Bool.and_eq_true, not_and_or, List.all_eq_true, Bool.not_eq_true',
    decide_eq_false_iff_not, List.mem_finRange, true_implies, Bool.and_eq_false_iff]
  push Not
  simp

/-- R58 case 3. -/
theorem mustWaitAtFence_iff (u : SlotUse) (s : State) :
    mustWaitAtFence u s = true ↔
      (u.cls = .strict ∨ u.kind = .exclusiveRead ∨ u.kind = .exclusiveWrite) ∧
        ((∃ e ∈ s.postedIntake, 0 < (u.arrival - e.arrival).toInt) ∨
          ∃ p, ∃ e ∈ (peek s.pwqs p).entries, e.domain = u.domain ∧ 0 < (u.arrival - e.arrival).toInt) := by
  rw [← isFenced_iff, ← fenceClear_eq_false_iff]
  simp [mustWaitAtFence]

/-! ## Buffers -/

theorem validBlock_eq_some {key : BufferKey} {b : Buffer} {block : List Byte} :
    validBlock key b = some block ↔ b = .valid key block := by
  cases b <;> simp [validBlock]

theorem isFilling_iff {key : BufferKey} {b : Buffer} : isFilling key b = true ↔ ∃ l fs, b = .filling key l fs := by
  cases b <;> simp [isFilling]

theorem blockQueued_iff (key : BufferKey) (s : State) :
    blockQueued key s = true ↔ ∃ e ∈ (peek s.pwqs key.port).entries, blockOf e.address = key.block := by
  simp [blockQueued]

/-- R104: a withdrawal makes the VALID buffer of the key FREE and out of the LRU list, and the FILLING one STALE. -/
theorem withdrawBlock_eq (key : BufferKey) (s : State) :
    withdrawBlock key s =
      { s with
        buffers := s.buffers.map (fun b =>
          match b with
          | .free => .free
          | .filling k l fs => if k = key then .stale k l fs else .filling k l fs
          | .stale k l fs => .stale k l fs
          | .valid k block => if k = key then .free else .valid k block)
        lru := s.lru.filter (fun b =>
          match peek s.buffers b with
          | .valid k _ => decide (k ≠ key)
          | _ => false) } := by
  unfold withdrawBlock keepValid
  dsimp only
  congr 1
  · apply table_ext
    intro i
    simp only [peek_map]
    cases peek s.buffers i <;> simp [bufferKey, withdrawn]
  · apply List.filter_congr
    intro b _
    rw [peek_map]
    cases peek s.buffers b with
    | valid k _ => by_cases h : k = key <;> simp [bufferKey, withdrawn, isValid, h]
    | filling k _ _ => by_cases h : k = key <;> simp [bufferKey, withdrawn, isValid, h]
    | stale k _ _ => by_cases h : k = key <;> simp [bufferKey, withdrawn, isValid, h]
    | free => rfl

/-! ## The posted intake -/

/-- R10, R29: every outcome but an entry for a full queue lets the head leave. -/
theorem letsHeadLeave_iff (d : Decoded) (s : State) :
    letsHeadLeave d s = true ↔ ∀ r, d = .work r → (peek s.pwqs r.port).entries.length < 16 := by
  cases d with
  | work r =>
    constructor
    · intro h x hx
      cases hx
      exact of_decide_eq_true h
    · intro h
      exact decide_eq_true (h r rfl)
  | _ => simp [letsHeadLeave]

/-- What the heads that leave do to the intake: it only shrinks. -/
theorem exitPostedHeads_length (l : List PostedEntry) (s : State) (h : s.postedIntake = l) :
    (exitPostedHeads l s).postedIntake.length ≤ l.length := by
  induction l generalizing s with
  | nil => simp [exitPostedHeads, h]
  | cons e rest ih =>
    unfold exitPostedHeads
    dsimp only
    split
    · have hr : (takePosted e (decode .posted e.agent e.address e.length s) { s with postedIntake := rest }).postedIntake = rest := by
        unfold takePosted
        repeat' split
        all_goals first
          | rfl
          | (unfold storeRecord; split <;> rfl)
      exact Nat.le_succ_of_le (ih _ hr)
    · simp [h]

/-! ## Lanes -/

/-- R45: the entries ahead of the oldest Queued one are Sent already. -/
theorem markSent_append (n : WriteSeq) (older younger : List QueueEntry) (e : QueueEntry) (h : ∀ x ∈ older, x.sent ≠ none)
    (he : e.sent = none) : markSent n (older ++ e :: younger) = older ++ { e with sent := some n } :: younger := by
  induction older with
  | nil => simp [markSent, he]
  | cons x xs ih =>
    have hx : x.sent.isNone = false := by
      have := h x (by simp)
      cases hh : x.sent <;> simp_all
    simp only [List.cons_append, markSent, hx]
    simp only [Bool.false_eq_true, if_false, List.cons.injEq, true_and]
    exact ih (fun y hy => h y (by simp [hy]))

theorem oldestQueued_append {p : Port} {s : State} {older younger : List QueueEntry} {e : QueueEntry}
    (hq : (peek s.pwqs p).entries = older ++ e :: younger) (h : ∀ x ∈ older, x.sent ≠ none) (he : e.sent = none) :
    oldestQueued p s = some e := by
  have hn : List.find? (fun e => e.sent.isNone) older = none := by
    simp only [List.find?_eq_none]
    intro x hx
    have := h x hx
    cases hh : x.sent <;> simp_all
  simp [oldestQueued, hq, List.find?_append, hn, he]

theorem downstreamTag_eq (s : State) (i : SlotId) :
    downstreamTag s i = BitVec.ofNat 8 (i.val * 4 + (peek s.slots i).epoch.toNat) := by
  apply BitVec.eq_of_toNat_eq
  have := (peek s.slots i).epoch.isLt
  simp only [downstreamTag, BitVec.toNat_append, BitVec.toNat_ofNat]
  rw [← Nat.shiftLeft_add_eq_or_of_lt (by omega), Nat.shiftLeft_eq]
  omega

/-! ## Completion pieces -/

/-- R66: a Good piece for a read that is a protocol fault. -/
theorem badReadPiece_iff (u : SlotUse) (offset count : Nat) (data : List Byte) :
    badReadPiece u offset count data = true ↔
      count = 0 ∨ u.received.length < offset + count ∨
        (∃ k, k < count ∧ ∃ x, u.received[offset + k]? = some (some x)) ∨ data.length ≠ count := by
  have key : ((List.take count (List.drop offset u.received)).any fun x => x.isSome) = true ↔
      ∃ k, k < count ∧ ∃ x, u.received[offset + k]? = some (some x) := by
    rw [List.any_eq_true]
    constructor
    · rintro ⟨x, hx, hs⟩
      obtain ⟨k, hk⟩ := List.mem_iff_getElem?.1 hx
      obtain ⟨y, rfl⟩ := Option.isSome_iff_exists.1 hs
      rw [List.getElem?_take] at hk
      split at hk
      · rename_i hlt
        exact ⟨k, hlt, y, by simpa using hk⟩
      · simp at hk
    · rintro ⟨k, hk, x, hx⟩
      refine ⟨some x, List.mem_iff_getElem?.2 ⟨k, ?_⟩, rfl⟩
      simp [hk, hx]
  simp only [badReadPiece, Bool.or_eq_true, decide_eq_true_eq, or_assoc, key]

theorem allReceived_iff (area : List (Option Byte)) : area.all (fun x => x.isSome) = true ↔ none ∉ area := by
  rw [List.all_eq_true]
  constructor
  · intro h hn
    simpa using h none hn
  · intro h x hx
    cases x with
    | none => exact absurd hx h
    | some y => rfl

/-! ## Steering -/

/-- R145: the least busy choice passes no candidate over. -/
theorem lessBusy_fold_none (busy : Vector Nat 8) (l : List Agent) (b : Option Agent) (h : l.foldl (lessBusy busy) b = none) :
    l = [] ∧ b = none := by
  induction l generalizing b with
  | nil => simpa using h
  | cons x xs ih =>
    have := ih _ h
    cases b <;> simp [lessBusy] at this
    split at this <;> simp at this

/-- R144, R145: no agent is chosen exactly when none is eligible. -/
theorem chooseAgent_eq_none_iff (e : VectorEntry) (masks : AgentSet) (busy : Vector Nat 8) :
    chooseAgent e masks busy = none ↔ ∀ a, eligibleAgent e masks a = false := by
  unfold chooseAgent
  split
  · simp [allAgents]
  · simp only [rotationFrom, allAgents, List.find?_eq_none, List.mem_map, List.mem_finRange, true_and, forall_exists_index,
      Bool.not_eq_true]
    constructor
    · intro h a
      exact h a (a - e.cursor - 1) (by simp)
    · intro h a _ _
      exact h a
  · constructor
    · intro h a
      have hl : allAgents.filter (eligibleAgent e masks) = [] := (lessBusy_fold_none busy _ none h).1
      simpa using List.filter_eq_nil_iff.1 hl a (List.mem_finRange a)
    · intro h
      have hl : allAgents.filter (eligibleAgent e masks) = [] := List.filter_eq_nil_iff.2 (fun a _ => by rw [h a]; decide)
      rw [hl]
      rfl

/-- R146: a steer that delivers nothing changes nothing. -/
theorem steer_eq_self {v : VectorId} {s : State}
    (h : (peek s.vectors v).state ≠ .pending ∨ (peek s.vectors v).enabled = false ∨
      chooseAgent (peek s.vectors v) s.agentMasks s.serviceCounts = none) : steer v s = s := by
  unfold steer
  dsimp only
  split
  · rename_i hh
    rcases h with h | h | h
    · exact absurd hh.1 h
    · simp [h] at hh
    · simp [h]
  · rfl

/-- R146: a steer that delivers. -/
theorem steer_delivers {v : VectorId} {a : Agent} {s : State} (h1 : (peek s.vectors v).state = .pending)
    (h2 : (peek s.vectors v).enabled = true)
    (h3 : chooseAgent (peek s.vectors v) s.agentMasks s.serviceCounts = some a) : steer v s = deliver v a s := by
  simp [steer, h1, h2, h3]

/-! ## Execution ends -/

/-- The end of the current request, where the command's row names it. -/
theorem executionEnd_named {named : ManagementEntry → Bool} {rule : ManagementEntry → State → Answer} {r : ManagementEntry}
    {s : State} (hc : s.current = some r) (hn : named r = true) : executionEnd named rule s = .next (endRequest r rule s) := by
  simp [executionEnd, hc, hn]

/-- R163: a request that passes the three checks is answered by its operation's rule. -/
theorem endRequest_passes {r : ManagementEntry} {rule : ManagementEntry → State → Answer} {op : Operation} {s : State}
    (ho : operationOfCode r.operation = some op) (hm : isReadOperation op = true ∨ hasAgent s.managementMask r.agent = true)
    (hw : r.words.length = operandCount op) :
    endRequest r rule s =
      appendCompletion
        { agent := r.agent, tag := r.tag, status := (rule r { s with current := none }).status, data := [],
          words := (rule r { s with current := none }).words }
        (raiseOnFirstRecord s (rule r { s with current := none }).after) := by
  rcases hm with hm | hm <;> simp [endRequest, answerRequest, ho, hm, hw]

/-- R163 row 2: a request from outside the mask. -/
theorem endRequest_refused {r : ManagementEntry} {rule : ManagementEntry → State → Answer} {op : Operation} {s : State}
    (ho : operationOfCode r.operation = some op) (hr : isReadOperation op = false)
    (hm : hasAgent s.managementMask r.agent = false) :
    endRequest r rule s =
      appendCompletion { agent := r.agent, tag := r.tag, status := .refused, data := [], words := [] }
        (raiseOnFirstRecord s (storeRecord (refusedRecord r) { s with current := none })) := by
  simp [endRequest, answerRequest, ho, hr, hm]

/-- R163 rows 1 and 3: an undefined operation, and a wrong number of operand words. -/
theorem endRequest_invalid {r : ManagementEntry} {rule : ManagementEntry → State → Answer} {s : State}
    (h : operationOfCode r.operation = none ∨
      ∃ op, operationOfCode r.operation = some op ∧
        (isReadOperation op = true ∨ hasAgent s.managementMask r.agent = true) ∧ r.words.length ≠ operandCount op) :
    endRequest r rule s =
      appendCompletion { agent := r.agent, tag := r.tag, status := .invalid, data := [], words := [] }
        { s with current := none } := by
  rcases h with h | ⟨op, ho, hm, hw⟩
  · simp [endRequest, answerRequest, h, answerInvalid, raiseOnFirstRecord]
  · rcases hm with hm | hm <;> simp [endRequest, answerRequest, ho, hm, hw, answerInvalid, raiseOnFirstRecord]

end Sys2Proof.Machine
end

