-- ==== Sys2Proof/Laws/LockOpening.lean ====
section
/-! SUPPORT. The opening of a lock ends: no step of it gives a FREE slot a use, and a lock opens again only after a slot was
freed, so `openLock` is what R118 says of it, with no bound. -/

namespace Sys2Proof.Machine

/-- A slot that is FREE in one state is FREE in another. -/
def KeepsFree (s t : State) : Prop := ∀ j, slotUse s j = none → slotUse t j = none

theorem KeepsFree.refl (s : State) : KeepsFree s s := fun _ h => h

theorem KeepsFree.trans {a b c : State} (h : KeepsFree a b) (k : KeepsFree b c) : KeepsFree a c := fun j hj => k j (h j hj)

theorem KeepsFree.fold {α : Type} (f : State → α → State) (h : ∀ s x, KeepsFree s (f s x)) (l : List α) (s : State) :
    KeepsFree s (l.foldl f s) := fold_keeps KeepsFree.refl KeepsFree.trans f h l s

theorem KeepsFree.of_slots {s t : State} (h : t.slots = s.slots) : KeepsFree s t := by
  intro j hj
  simpa [slotUse, h] using hj

theorem putUse_keepsFree {i : SlotId} {u : Option SlotUse} {s : State} (h : slotUse s i = none → u = none) :
    KeepsFree s (putUse i u s) := by
  intro j hj
  by_cases hij : i = j
  · subst hij; simp [h hj]
  · simp [slotUse_putUse_ne _ _ hij, hj]

theorem countDown_slots (g : Generation) (s : State) : (countDown g s).slots = s.slots := by
  unfold countDown endDrainIfDone endDrain copyActiveBank
  dsimp only
  repeat' split
  all_goals rfl

/-! ## The tracker -/

theorem freeSlot_keepsFree (i : SlotId) (s : State) : KeepsFree s (freeSlot i s) := by
  unfold freeSlot
  split
  · exact KeepsFree.refl s
  · exact (putUse_keepsFree (fun _ => rfl)).trans (KeepsFree.of_slots (countDown_slots _ _))

theorem answerSlot_keepsFree (i : SlotId) (st : Status) (data : List Byte) (s : State) :
    KeepsFree s (answerSlot i st data s) := by
  unfold answerSlot
  split
  · exact KeepsFree.refl s
  · exact KeepsFree.trans (fun j hj => by rw [slotUse_reply, hj]) (freeSlot_keepsFree i _)

theorem answerFollowersFailed_keepsFree (st : Status) (l : List SlotId) (s : State) :
    KeepsFree s (answerFollowersFailed st l s) := by
  unfold answerFollowersFailed
  refine KeepsFree.fold _ (fun s i => ?_) l s
  split
  · exact answerSlot_keepsFree i _ _ s
  · exact KeepsFree.refl s

theorem endLedFill_keepsFree (u : SlotUse) (st : Status) (s : State) : KeepsFree s (endLedFill u st s) := by
  unfold endLedFill endFillFailed
  split
  · split
    · refine KeepsFree.trans ?_ (answerFollowersFailed_keepsFree st _ _)
      exact KeepsFree.of_slots rfl
    · refine KeepsFree.trans ?_ (answerFollowersFailed_keepsFree st _ _)
      exact KeepsFree.of_slots rfl
    · exact KeepsFree.refl s
    · exact KeepsFree.refl s
  · exact KeepsFree.refl s
  · exact KeepsFree.refl s

theorem failSlot_keepsFree (i : SlotId) (st : Status) (s : State) : KeepsFree s (failSlot i st s) := by
  unfold failSlot
  split
  · exact KeepsFree.refl s
  · exact (answerSlot_keepsFree i st _ s).trans (endLedFill_keepsFree _ st _)

theorem enterReady_keepsFree (i : SlotId) (s : State) : KeepsFree s (enterReady i s) := by
  unfold enterReady
  split
  · exact KeepsFree.refl s
  · next u h => exact (putUse_keepsFree (u := some { u with state := .ready }) (by simp [h])).trans (KeepsFree.of_slots rfl)

theorem followFill_keepsFree {b : BufferId} {i : SlotId} {u : SlotUse} {s : State} (h : slotUse s i = some u) :
    KeepsFree s (followFill b i u s) := by
  have k : KeepsFree s (putUse i (some { u with state := .fillWait, fillLink := some (.follower b) }) s) :=
    putUse_keepsFree (by simp [h])
  unfold followFill
  dsimp only
  split
  · exact k.trans (KeepsFree.of_slots rfl)
  · exact k
  · exact k
  · exact k

theorem leadFill_keepsFree {b : BufferId} {i : SlotId} {u : SlotUse} {s : State} (h : slotUse s i = some u) :
    KeepsFree s (leadFill b i u s) := by
  have k (w : SlotUse) : KeepsFree s (putUse i (some w) s) := putUse_keepsFree (fun hn => by rw [h] at hn; cases hn)
  unfold leadFill
  refine KeepsFree.trans ?_ (enterReady_keepsFree i _)
  exact (k _).trans (KeepsFree.of_slots rfl)

theorem readFromBuffers_keepsFree {i : SlotId} {u : SlotUse} {s : State} (h : slotUse s i = some u) :
    KeepsFree s (readFromBuffers i u s) := by
  unfold readFromBuffers
  split
  · refine KeepsFree.trans ?_ (answerSlot_keepsFree i _ _ _)
    exact KeepsFree.of_slots rfl
  · split
    · exact followFill_keepsFree h
    · split
      · exact enterReady_keepsFree i s
      · split
        · exact leadFill_keepsFree h
        · exact enterReady_keepsFree i s

theorem readyPoint_keepsFree (i : SlotId) (s : State) : KeepsFree s (readyPoint i s) := by
  unfold readyPoint
  split
  · exact KeepsFree.refl s
  · next u h =>
    split
    · exact failSlot_keepsFree i _ s
    · split
      · exact enterReady_keepsFree i s
      · split
        · exact readFromBuffers_keepsFree h
        · exact enterReady_keepsFree i s

theorem meetFence_keepsFree (i : SlotId) (s : State) : KeepsFree s (meetFence i s) := by
  unfold meetFence
  split
  · exact KeepsFree.refl s
  · next u h =>
    split
    · exact (putUse_keepsFree (u := some { u with state := .fenceWait }) (by simp [h])).trans (KeepsFree.of_slots rfl)
    · exact readyPoint_keepsFree i s

/-! ## Claims and releases -/

theorem leaveLists_slots (i : SlotId) (u : SlotUse) (s : State) : (leaveLists i u s).slots = s.slots := by
  unfold leaveLists
  repeat' split
  all_goals rfl

theorem enterLockWait_keepsFree (i : SlotId) (s : State) : KeepsFree s (enterLockWait i s) := by
  unfold enterLockWait
  split
  · exact KeepsFree.refl s
  · next u h => exact (putUse_keepsFree (u := some { u with state := .lockWait }) (by simp [h])).trans (KeepsFree.of_slots rfl)

theorem moveToLockWait_keepsFree (i : SlotId) (s : State) : KeepsFree s (moveToLockWait i s) := by
  unfold moveToLockWait
  split
  · exact KeepsFree.refl s
  · exact (KeepsFree.of_slots (leaveLists_slots i _ s)).trans (enterLockWait_keepsFree i _)

theorem claimLock_keepsFree (p : Port) (i : SlotId) (u : SlotUse) (s : State) : KeepsFree s (claimLock p i u s) := by
  unfold claimLock
  refine KeepsFree.trans ?_ (KeepsFree.fold _ (fun s j => moveToLockWait_keepsFree j s) _ _)
  exact KeepsFree.of_slots rfl

theorem releaseFromWaiting_keepsFree (p : Port) (i : SlotId) (s : State) : KeepsFree s (releaseFromWaiting p i s) := by
  refine KeepsFree.trans ?_ (meetFence_keepsFree i _)
  exact KeepsFree.of_slots rfl

theorem claimFromWaiting_keepsFree (p : Port) (i : SlotId) (u : SlotUse) (s : State) :
    KeepsFree s (claimFromWaiting p i u s) := by
  refine KeepsFree.trans ?_ ((claimLock_keepsFree p i u _).trans (meetFence_keepsFree i _))
  exact KeepsFree.of_slots rfl

/-! ## The opening ends -/

/-- How many slots are in use. -/
def usedCount (s : State) : Nat := allSlots.countP (fun i => (slotUse s i).isSome)

theorem usedCount_le_slots (s : State) : usedCount s ≤ 64 := by
  have h : usedCount s ≤ allSlots.length := List.countP_le_length
  simpa [allSlots] using h

theorem KeepsFree.usedCount_le {s t : State} (h : KeepsFree s t) : usedCount t ≤ usedCount s := by
  refine List.countP_mono_left (fun j _ hj => ?_)
  cases hs : slotUse s j with
  | none => rw [h j hs] at hj; cases hj
  | some u => rfl

theorem KeepsFree.usedCount_lt {s t : State} (h : KeepsFree s t) {i : SlotId} (hs : (slotUse s i).isSome = true)
    (ht : slotUse t i = none) : usedCount t < usedCount s := by
  have k : KeepsFree (putUse i none s) t := by
    intro j hj
    by_cases hij : i = j
    · subst hij; exact ht
    · rw [slotUse_putUse_ne _ _ hij] at hj; exact h j hj
  refine Nat.lt_of_le_of_lt k.usedCount_le ?_
  have hmem : i ∈ allSlots := List.mem_finRange i
  obtain ⟨a, b, hab⟩ := List.append_of_mem hmem
  have hnd : (a ++ i :: b).Nodup := hab ▸ List.nodup_finRange 64
  have hsame : ∀ l : List SlotId, i ∉ l →
      l.countP (fun j => (slotUse (putUse i none s) j).isSome) = l.countP (fun j => (slotUse s j).isSome) := by
    intro l hl
    refine List.countP_congr (fun j hj => ?_)
    rw [slotUse_putUse_ne _ _ (fun e : i = j => hl (e ▸ hj))]
  have ha : i ∉ a := fun e => (List.nodup_append.1 hnd).2.2 i e i (by simp) rfl
  have hb : i ∉ b := (List.nodup_cons.1 (List.nodup_append.1 hnd).2.1).1
  unfold usedCount
  rw [hab, List.countP_append, List.countP_append, List.countP_cons, List.countP_cons, hsame a ha, hsame b hb]
  simp [hs]

/-- Two ways to open the lock again that agree on states with fewer slots in use give the same processing. -/
theorem processOrder_congr {f g : State → State} (p : Port) : ∀ (l : List SlotId) (s : State),
    (∀ t, usedCount t < usedCount s → f t = g t) → processOrder f p l s = processOrder g p l s := by
  intro l
  induction l with
  | nil => intro s _; rfl
  | cons i rest ih =>
    intro s h
    unfold processOrder
    cases hu : slotUse s i with
    | none => exact ih s h
    | some u =>
      dsimp only
      split
      · cases hc : slotUse (claimFromWaiting p i u s) i with
        | none =>
          simp only [Option.isNone_none, if_true]
          exact h _ ((claimFromWaiting_keepsFree p i u s).usedCount_lt (by simp [hu]) hc)
        | some w => simp
      · exact ih _ (fun t ht => h t (Nat.lt_of_lt_of_le ht (releaseFromWaiting_keepsFree p i s).usedCount_le))

/-- With no slot in use there is nothing to process. -/
theorem processOrder_unused {f : State → State} (p : Port) (l : List SlotId) (s : State) (h : usedCount s = 0) :
    processOrder f p l s = s := by
  have hn : ∀ j, slotUse s j = none := by
    intro j
    have := List.countP_eq_zero.1 h j (List.mem_finRange j)
    simpa using this
  induction l with
  | nil => rfl
  | cons i rest ih => unfold processOrder; simp [hn i, ih]

/-- As many openings as slots in use are enough. -/
theorem openLockWithin_succ (n : Nat) (p : Port) : ∀ s : State, usedCount s ≤ n →
    openLockWithin (n + 1) p s = openLockWithin n p s := by
  induction n with
  | zero =>
    intro s h
    have h0 : usedCount (putLock p .opened s) = 0 := Nat.le_zero.1 h
    exact processOrder_unused p _ _ h0
  | succ n ih =>
    intro s h
    have hl : usedCount (putLock p .opened s) ≤ n + 1 := h
    exact processOrder_congr p _ _ (fun t ht => ih t (by omega))

/-- R118: the opening of a lock, with a lock that opens again in the processing opened in the same way. -/
theorem openLock_eq (p : Port) (s : State) :
    openLock p s = processOrder (openLock p) p (peek s.waiting p) { s with locks := poke s.locks p .opened } := by
  refine processOrder_congr p _ _ (fun t ht => ?_)
  have := usedCount_le_slots (putLock p .opened s)
  exact (openLockWithin_succ 63 p t (by have : usedCount t < usedCount (putLock p .opened s) := ht; omega)).symm

end Sys2Proof.Machine
end

