-- ==== Sys2Proof/Laws/Loops.lean ====
section
/-! SUPPORT. What the loops of an event do, each said once for any list without repetition: the slots a claim moves, the locks
a reset breaks with their records, and the slots a reset frees or mutes. -/

namespace Sys2Proof.Machine

/-! ## The slots a claim moves (R59, R112) -/

/-- Whether a slot is in use in a state. -/
def inState (s : State) (st : SlotState) (j : SlotId) : Bool := decide ((slotUse s j).map SlotUse.state = some st)

/-- A slot that a claim on a port may move. -/
def movableIn (p : Port) (s : State) (j : SlotId) : Prop :=
  ∃ w, slotUse s j = some w ∧ w.port = p ∧ (w.state = .fenceWait ∨ w.state = .ready)

/-- A slot as LOCK_WAIT leaves it. -/
def lockWaiting (s : State) (j : SlotId) : Slot :=
  { epoch := (peek s.slots j).epoch, use := (slotUse s j).map (fun w => { w with state := .lockWait }) }

/-- A state with every slot of a list moved to the waiting order of a port. -/
def movedToLockWait (p : Port) (l : List SlotId) (s : State) : State :=
  { s with
    slots := Vector.ofFn (fun j => if j ∈ l then lockWaiting s j else peek s.slots j)
    waiting := poke s.waiting p (mergeByArrival (arrivalOf s) l (peek s.waiting p))
    fenceOrder := s.fenceOrder.filter (fun j => !(decide (j ∈ l) && inState s .fenceWait j))
    dispatch := poke s.dispatch p ((peek s.dispatch p).filter (fun j => !(decide (j ∈ l) && inState s .ready j))) }

/-- Slots in FENCE_WAIT and READY leave their lists for LOCK_WAIT one after another as if all at once (R59). -/
theorem moveToLockWait_foldl (p : Port) : ∀ (l : List SlotId) (s : State), l.Nodup → (∀ j ∈ l, movableIn p s j) →
    l.foldl (fun s j => moveToLockWait j s) s = movedToLockWait p l s := by
  intro l
  induction l with
  | nil =>
    intro s _ _
    have : Vector.ofFn (fun j => peek s.slots j) = s.slots := by apply table_ext; intro i; rw [peek_ofFn]
    have h2 : s.fenceOrder.filter (fun _ => true) = s.fenceOrder := by simp
    simp [movedToLockWait, mergeByArrival, poke_peek_self, this]
  | cons i l ih =>
    intro s hn hm
    obtain ⟨w, hw, hp, hst⟩ := hm i (by simp)
    have hi : i ∉ l := (List.nodup_cons.1 hn).1
    rw [List.foldl_cons]
    have hus : ∀ j, j ≠ i → slotUse (moveToLockWait i s) j = slotUse s j := by
      intro j hj
      have hj : i ≠ j := fun h => hj h.symm
      rcases hst with h | h <;> simp [moveToLockWait, leaveLists, enterLockWait, slotUse, putUse] <;>
        simp_all [slotUse, peek_poke_ne]
    have hsl : (moveToLockWait i s).slots = poke s.slots i (lockWaiting s i) := by
      have hw' : (peek s.slots i).use = some w := hw
      rcases hst with h | h <;> simp [moveToLockWait, leaveLists, h, enterLockWait, slotUse, putUse, lockWaiting, hw']
    have harr : arrivalOf (moveToLockWait i s) = arrivalOf s := by
      funext j
      by_cases hj : j = i
      · subst hj
        have : slotUse (moveToLockWait j s) j = some { w with state := .lockWait } := by
          simp [slotUse, hsl, lockWaiting]; exact ⟨w, hw, by simp⟩
        simp [arrivalOf, this, hw]
      · simp [arrivalOf, hus j hj]
    have hwt : (moveToLockWait i s).waiting = poke s.waiting p (insertByArrival (arrivalOf s) i (peek s.waiting p)) := by
      have hw' : (peek s.slots i).use = some w := hw
      have key : ∀ t : State, t.slots = s.slots → t.waiting = s.waiting →
          (enterLockWait i t).waiting = poke s.waiting p (insertByArrival (arrivalOf s) i (peek s.waiting p)) := by
        intro t h1 h2
        have hu : slotUse t i = some w := by simp [slotUse, h1, hw']
        have e1 : arrivalOf (putUse i (some { w with state := .lockWait }) t) = arrivalOf s := by
          rw [arrivalOf_putUse (v := { w with state := .lockWait }) hu rfl]; funext j; simp [arrivalOf, slotUse, h1]
        have e2 : enterLockWait i t =
            { putUse i (some { w with state := .lockWait }) t with
              waiting := poke t.waiting w.port
                (insertByArrival (arrivalOf (putUse i (some { w with state := .lockWait }) t)) i (peek t.waiting w.port)) } := by
          simp [enterLockWait, hu]
        rw [e2, e1, h2, hp]
      rcases hst with h | h <;> simp only [moveToLockWait, hw, leaveLists, h] <;> apply key <;> rfl
    have hfo : (moveToLockWait i s).fenceOrder = s.fenceOrder.filter (fun j => !(decide (j = i) && inState s .fenceWait j)) := by
      have key : ∀ t : State, (enterLockWait i t).fenceOrder = t.fenceOrder := by
        intro t; unfold enterLockWait; split <;> rfl
      rcases hst with h | h <;> simp only [moveToLockWait, hw, leaveLists, h, key, without]
      · apply List.filter_congr; intro j _
        by_cases hj : j = i
        · subst hj; simp [inState, hw, h]
        · simp [hj]
      · symm; apply List.filter_eq_self.2; intro j _
        by_cases hj : j = i
        · subst hj; simp [inState, hw, h]
        · simp [hj]
    have hdi : (moveToLockWait i s).dispatch =
        poke s.dispatch p ((peek s.dispatch p).filter (fun j => !(decide (j = i) && inState s .ready j))) := by
      have key : ∀ t : State, (enterLockWait i t).dispatch = t.dispatch := by
        intro t; unfold enterLockWait; split <;> rfl
      rcases hst with h | h <;> simp only [moveToLockWait, hw, leaveLists, h, key, without, hp]
      · have : (peek s.dispatch p).filter (fun j => !(decide (j = i) && inState s .ready j)) = peek s.dispatch p := by
          apply List.filter_eq_self.2; intro j _
          by_cases hj : j = i
          · subst hj; simp [inState, hw, h]
          · simp [hj]
        rw [this, poke_peek_self]
      · congr 1
        apply List.filter_congr; intro j _
        by_cases hj : j = i
        · subst hj; simp [inState, hw, h]
        · simp [hj]
    have hrest : ∀ a b c d,
        ({ moveToLockWait i s with slots := a, waiting := b, fenceOrder := c, dispatch := d } : State) =
          { s with slots := a, waiting := b, fenceOrder := c, dispatch := d } := by
      intro a b c d
      rcases hst with h | h <;> (simp only [moveToLockWait, hw, leaveLists, h]; unfold enterLockWait; split <;> rfl)
    have hst' : ∀ st j, j ∈ l → inState (moveToLockWait i s) st j = inState s st j := by
      intro st j hj
      have : j ≠ i := by rintro rfl; exact hi hj
      simp [inState, hus j this]
    rw [ih (moveToLockWait i s) (List.nodup_cons.1 hn).2 ?_]
    · unfold movedToLockWait
      rw [hrest]
      simp only [State.mk.injEq, true_and, and_true]
      refine ⟨?_, ?_, ?_, ?_⟩
      · apply table_ext; intro j
        rw [peek_ofFn, peek_ofFn]
        by_cases hj : j = i
        · subst hj; simp [hi, hsl]
        · have hj' : i ≠ j := fun h => hj h.symm
          simp only [List.mem_cons, hj, false_or, lockWaiting, hus j hj, hsl, peek_poke_ne _ _ hj']
      · rw [hdi]
        simp only [peek_poke_same, poke_poke, List.filter_filter]
        congr 1
        apply List.filter_congr; intro j _
        by_cases hj : j = i
        · subst hj; simp [hi]
        · by_cases hjl : j ∈ l
          · simp [hj, hjl, hst' _ j hjl]
          · simp [hj, hjl]
      · rw [hfo, List.filter_filter]
        apply List.filter_congr; intro j _
        by_cases hj : j = i
        · subst hj; simp [hi]
        · by_cases hjl : j ∈ l
          · simp [hj, hjl, hst' _ j hjl]
          · simp [hj, hjl]
      · rw [hwt, harr]
        simp only [peek_poke_same, poke_poke]
        rfl
    · intro j hj
      obtain ⟨x, hx⟩ := hm j (by simp [hj])
      have : j ≠ i := by rintro rfl; exact hi hj
      exact ⟨x, by rw [hus j this]; exact hx.1, hx.2⟩

/-! ## Records stored in turn, and locks broken in turn (R122, R177) -/

/-- Records stored one after another. -/
def storeRecords (bs : List RecordBody) (s : State) : State := bs.foldl (fun t b => storeRecord b t) s

/-- The records that find room are stored in order; the first that finds none sets the overflow flag (R177). -/
theorem storeRecords_eq (bs : List RecordBody) : ∀ s : State,
    storeRecords bs s =
      { s with
        records := s.records ++ (bs.take (32 - s.records.length)).map (fun b => { time := s.bridgeTime, body := b })
        overflow := s.overflow || decide (bs ≠ [] ∧ 32 < s.records.length + bs.length) } := by
  induction bs with
  | nil => intro s; simp [storeRecords]
  | cons b bs ih =>
    intro s
    have : storeRecords (b :: bs) s = storeRecords bs (storeRecord b s) := rfl
    rw [this, ih]
    by_cases h : s.records.length < 32
    · rw [storeRecord_room h]
      have h2 : 32 - s.records.length = (32 - (s.records.length + 1)) + 1 := by omega
      simp only [State.mk.injEq, true_and, and_true, List.length_append, List.length_cons, List.length_nil]
      refine ⟨?_, ?_⟩
      · rw [h2]; simp
      · congr 1
        by_cases hb : bs = []
        · subst hb; simp; omega
        · simp [hb]; omega
    · rw [storeRecord_full (by omega)]
      have h2 : 32 - s.records.length = 0 := by omega
      simp only [State.mk.injEq, true_and, and_true, h2, List.take_zero, List.map_nil, List.append_nil]
      simp; omega

/-- The record that an upstream link reset makes of a lock it breaks. -/
def brokenByReset (s : State) (p : Port) : Option RecordBody :=
  match peek s.locks p with
  | .opened => none
  | .claimed owner _ _ => some (.exclusiveBroken p owner .claimed .upstreamReset)
  | .held owner _ _ => some (.exclusiveBroken p owner .held .upstreamReset)

/-- Storing records does not touch the locks. -/
theorem storeRecords_locks (bs : List RecordBody) (s : State) (l : Vector Lock 4) (br : AgentSet) :
    storeRecords bs { s with locks := l, broken := br } = { storeRecords bs s with locks := l, broken := br } := by
  rw [storeRecords_eq, storeRecords_eq]

/-- Locks are broken in port order, with one record each (R122). -/
theorem breakLock_foldl (l : List Port) : ∀ s : State, l.Nodup → ∃ br,
    l.foldl (fun s p => breakLock p .upstreamReset s) s =
      { storeRecords (l.filterMap (brokenByReset s)) s with
        locks := Vector.ofFn (fun p => if p ∈ l then .opened else peek s.locks p), broken := br } := by
  induction l with
  | nil =>
    intro s _
    have : Vector.ofFn (fun p => peek s.locks p) = s.locks := table_ext (by simp)
    exact ⟨s.broken, by simp [storeRecords, this]⟩
  | cons p l ih =>
    intro s hn
    obtain ⟨hp, hl⟩ := List.nodup_cons.1 hn
    have hstep : ∃ br, breakLock p .upstreamReset s =
        { storeRecords (brokenByReset s p).toList s with locks := poke s.locks p .opened, broken := br } := by
      unfold breakLock brokenByReset
      cases h : peek s.locks p with
      | opened =>
        have : poke s.locks p .opened = s.locks := by rw [← h]; exact poke_peek_self _ _
        exact ⟨s.broken, by simp [storeRecords, this]⟩
      | claimed a n i =>
        refine ⟨s.broken, ?_⟩
        have := storeRecords_locks [.exclusiveBroken p a .claimed .upstreamReset] s (poke s.locks p .opened) s.broken
        exact this
      | held a n e =>
        refine ⟨addAgent s.broken a, ?_⟩
        have := storeRecords_locks [.exclusiveBroken p a .held .upstreamReset] s (poke s.locks p .opened) (addAgent s.broken a)
        exact this
    obtain ⟨br, hbr⟩ := hstep
    obtain ⟨br', hbr'⟩ := ih (breakLock p .upstreamReset s) hl
    refine ⟨br', ?_⟩
    rw [List.foldl_cons, hbr']
    have hlk : (breakLock p .upstreamReset s).locks = poke s.locks p .opened := by rw [hbr]
    have hb : l.filterMap (brokenByReset (breakLock p .upstreamReset s)) = l.filterMap (brokenByReset s) := by
      apply List.filterMap_congr
      intro q hq
      have : p ≠ q := fun e => hp (e ▸ hq)
      simp [brokenByReset, hlk, peek_poke_ne _ _ this]
    have hlocks :
        (Vector.ofFn (fun q => if q ∈ l then Lock.opened else peek (breakLock p .upstreamReset s).locks q)) =
          Vector.ofFn (fun q => if q ∈ p :: l then .opened else peek s.locks q) := by
      apply table_ext; intro q
      rw [peek_ofFn, peek_ofFn, hlk]
      by_cases hq : q = p
      · subst hq; simp
      · simp [hq, peek_poke_ne _ _ (fun e : p = q => hq e.symm)]
    rw [hb, hlocks, hbr, storeRecords_locks]
    have hcat : (p :: l).filterMap (brokenByReset s) = (brokenByReset s p).toList ++ l.filterMap (brokenByReset s) := by
      cases h : brokenByReset s p <;> simp [h]
    rw [hcat]
    have : storeRecords ((brokenByReset s p).toList ++ l.filterMap (brokenByReset s)) s =
        storeRecords (l.filterMap (brokenByReset s)) (storeRecords (brokenByReset s p).toList s) := by
      simp [storeRecords, List.foldl_append]
    rw [this]

/-! ## Slots at an upstream link reset (R12, R17, R19, R75) -/

/-- A slot that the reset frees: it has sent nothing. -/
def waitsAtReset (u : SlotUse) : Bool :=
  decide (u.state = .lockWait ∨ u.state = .fenceWait ∨ u.state = .ready ∨ u.state = .fillWait)

/-- The records of the slots of a list that the reset frees. -/
def freedUses (s : State) (l : List SlotId) : List SlotUse := (l.filterMap (slotUse s)).filter waitsAtReset

/-- How many of them are of a generation. -/
def freedOf (g : Generation) (us : List SlotUse) : Nat := us.countP (fun u => decide (u.generation = g))

/-- What the reset leaves of a slot (R75). -/
def resetUse (x : Option SlotUse) : Option SlotUse :=
  match x with
  | none => none
  | some u => if waitsAtReset u then none else if u.state = .orphaned then some u else some { u with mute := true }

/-- What the reset does to the slots of a list: `t` is the state after. -/
structure ResetFold (s : State) (l : List SlotId) (t : State) : Prop where
  rest :
    t =
      { s with
        slots := t.slots, counts := t.counts, buffers := t.buffers, drain := t.drain, bankA := t.bankA, bankB := t.bankB }
  slots : ∀ j, peek t.slots j =
    if j ∈ l then { epoch := (peek s.slots j).epoch, use := resetUse (slotUse s j) } else peek s.slots j
  counts : ∀ g, peek t.counts (genIndex g) = peek s.counts (genIndex g) - freedOf g (freedUses s l)
  buffers : ∀ b, peek t.buffers b = if ∃ u ∈ freedUses s l, u.fillLink = some (.leader b) then .free else peek s.buffers b
  noDrain : s.drain = none → t.drain = none ∧ t.bankA = s.bankA ∧ t.bankB = s.bankB
  drained : ∀ d, s.drain = some d →
    freedOf d.generation (freedUses s l) ≠ 0 ∧
      peek s.counts (genIndex d.generation) ≤ freedOf d.generation (freedUses s l) →
    t.drain = none ∧ t.bankA = activeEntries s ∧ t.bankB = activeEntries s
  draining : ∀ d, s.drain = some d →
    ¬ (freedOf d.generation (freedUses s l) ≠ 0 ∧
      peek s.counts (genIndex d.generation) ≤ freedOf d.generation (freedUses s l)) →
    t.drain = some d ∧ t.bankA = s.bankA ∧ t.bankB = s.bankB

theorem genIndex_inj {g h : Generation} : genIndex g = genIndex h ↔ g = h := by
  constructor
  · intro e
    have := congrArg Fin.val e
    exact BitVec.eq_of_toNat_eq this
  · rintro rfl; rfl

theorem freedUses_cons_waiting {s : State} {i : SlotId} {u : SlotUse} (h : slotUse s i = some u) (hw : waitsAtReset u = true)
    (l : List SlotId) : freedUses s (i :: l) = u :: freedUses s l := by
  simp [freedUses, h, hw]

theorem freedUses_cons_staying {s : State} {i : SlotId} (h : ∀ u, slotUse s i = some u → waitsAtReset u = false)
    (l : List SlotId) : freedUses s (i :: l) = freedUses s l := by
  cases hu : slotUse s i with
  | none => simp [freedUses, hu]
  | some u => simp [freedUses, hu, h u hu]

theorem freedUses_congr {s t : State} {l : List SlotId} (h : ∀ j ∈ l, slotUse t j = slotUse s j) :
    freedUses t l = freedUses s l := by
  unfold freedUses
  rw [List.filterMap_congr h]

theorem ResetFold.nil (s : State) : ResetFold s [] s := by
  refine ⟨rfl, by simp, by simp [freedUses, freedOf], by simp [freedUses], fun h => ⟨h, rfl, rfl⟩, ?_,
    fun d h _ => ⟨h, rfl, rfl⟩⟩
  intro d _ h; simp [freedUses, freedOf] at h

/-- R75 for one slot that is freed: its count falls, a buffer it leads is FREE, and the drain may end (R12, R17). -/
theorem resetSlot_waiting {s : State} {i : SlotId} {u : SlotUse} (h : slotUse s i = some u) (hw : waitsAtReset u = true)
    (hs : ∀ d, s.drain = some d → d.suppressed = true) : ResetFold s [i] (resetSlot i s) := by
  have e : resetSlot i s = dropSlot i u s := by
    unfold resetSlot
    simp only [h]
    cases hst : u.state <;> first | rfl | simp [waitsAtReset, hst] at hw
  have hb : ∃ bufs : Vector Buffer 8,
      dropSlot i u s =
        countDown u.generation
          { s with slots := poke s.slots i { epoch := (peek s.slots i).epoch, use := none }, buffers := bufs } ∧
      ∀ b, peek bufs b = if u.fillLink = some (.leader b) then .free else peek s.buffers b := by
    unfold dropSlot
    have hfree : ∀ t : State, t.slots = s.slots →
        freeSlot i t =
          countDown u.generation { t with slots := poke s.slots i { epoch := (peek s.slots i).epoch, use := none } } := by
      intro t ht
      have : slotUse t i = some u := by rw [← h]; simp [slotUse, ht]
      simp [freeSlot, this, putUse, ht]
    cases hl : u.fillLink with
    | none => exact ⟨s.buffers, hfree s rfl, by simp⟩
    | some x =>
      cases x with
      | leader c =>
        refine ⟨poke s.buffers c .free, hfree _ rfl, ?_⟩
        intro b
        by_cases hc : c = b
        · subst hc; simp
        · simp [hc, peek_poke_ne]
      | follower c => exact ⟨s.buffers, hfree s rfl, by simp⟩
  obtain ⟨bufs, he, hbufs⟩ := hb
  rw [e, he]
  have hf : freedUses s [i] = [u] := by rw [freedUses_cons_waiting h hw]; rfl
  have hf1 : ∀ g, freedOf g (freedUses s [i]) = if u.generation = g then 1 else 0 := by
    intro g; rw [hf]; by_cases hg : u.generation = g <;> simp [freedOf, hg]
  have hcd : ∃ dr ba bb,
      countDown u.generation
          { s with slots := poke s.slots i { epoch := (peek s.slots i).epoch, use := none }, buffers := bufs } =
        { s with
          slots := poke s.slots i { epoch := (peek s.slots i).epoch, use := none }, buffers := bufs
          counts := poke s.counts (genIndex u.generation) (peek s.counts (genIndex u.generation) - 1)
          drain := dr, bankA := ba, bankB := bb } ∧
      (s.drain = none → dr = none ∧ ba = s.bankA ∧ bb = s.bankB) ∧
      (∀ d, s.drain = some d → d.generation = u.generation ∧ peek s.counts (genIndex u.generation) ≤ 1 →
        dr = none ∧ ba = activeEntries s ∧ bb = activeEntries s) ∧
      (∀ d, s.drain = some d → ¬ (d.generation = u.generation ∧ peek s.counts (genIndex u.generation) ≤ 1) →
        dr = some d ∧ ba = s.bankA ∧ bb = s.bankB) := by
    cases hd : s.drain with
    | none => exact ⟨none, s.bankA, s.bankB, by simp [countDown, countOf], by simp, by simp, by simp⟩
    | some d =>
      by_cases hg : d.generation = u.generation ∧ peek s.counts (genIndex u.generation) ≤ 1
      · obtain ⟨hg1, hg2⟩ := hg
        refine ⟨none, activeEntries s, activeEntries s, ?_, by simp, by simp, ?_⟩
        · have : peek s.counts (genIndex u.generation) - 1 = 0 := by omega
          have hsup := hs d hd
          simp only [countDown, countOf, hg1, if_true, endDrainIfDone, peek_poke_same, this, endDrain, hsup, copyActiveBank,
            activeEntries]
          cases s.activeBank <;> rfl
        · intro d' h1 h2; cases h1; exact absurd ⟨hg1, hg2⟩ h2
      · refine ⟨some d, s.bankA, s.bankB, ?_, by simp, ?_, ?_⟩
        · by_cases hg1 : d.generation = u.generation
          · have hne : peek s.counts (genIndex u.generation) - 1 ≠ 0 := by
              have hn : ¬ peek s.counts (genIndex u.generation) ≤ 1 := fun h => hg ⟨hg1, h⟩
              omega
            simp [countDown, countOf, hg1, endDrainIfDone, hne]
          · simp [countDown, countOf, hg1]
        · intro d' h1 h2; cases h1; exact absurd h2 hg
        · intro d' h1 _; cases h1; simp
  obtain ⟨dr, ba, bb, hc, h1, h2, h3⟩ := hcd
  rw [hc]
  refine ⟨rfl, ?_, ?_, ?_, h1, ?_, ?_⟩
  · intro j
    by_cases hj : j = i
    · subst hj; simp [h, resetUse, hw]
    · simp [hj, peek_poke_ne _ _ (fun h : i = j => hj h.symm)]
  · intro g
    rw [hf1]
    by_cases hg : u.generation = g
    · subst hg; simp
    · have : genIndex u.generation ≠ genIndex g := fun h => hg (genIndex_inj.1 h)
      simp [hg, peek_poke_ne _ _ this]
  · intro b
    rw [hf]; simpa using hbufs b
  · intro d hd ⟨h4, h5⟩
    rw [hf1] at h4 h5
    by_cases hg : u.generation = d.generation
    · simp only [hg, if_true] at h5; exact h2 d hd ⟨hg.symm, hg ▸ h5⟩
    · simp [hg] at h4
  · intro d hd h4
    refine h3 d hd ?_
    rintro ⟨h5, h6⟩
    apply h4
    rw [hf1]; simp [h5, h6]

/-- R75 for one slot that is not freed. -/
theorem resetSlot_staying {s : State} {i : SlotId} (h : ∀ u, slotUse s i = some u → waitsAtReset u = false) :
    ResetFold s [i] (resetSlot i s) := by
  have hf : freedUses s [i] = [] := by rw [freedUses_cons_staying h]; rfl
  have hz : ∀ g, freedOf g (freedUses s [i]) = 0 := by intro g; rw [hf]; rfl
  have key : resetSlot i s =
      { s with slots := poke s.slots i { epoch := (peek s.slots i).epoch, use := resetUse (slotUse s i) } } := by
    unfold resetSlot
    have hself : poke s.slots i { epoch := (peek s.slots i).epoch, use := slotUse s i } = s.slots := poke_peek_self s.slots i
    cases hu : slotUse s i with
    | none => rw [hu] at hself; simp [resetUse, hself]
    | some u =>
      have hw := h u hu
      rw [hu] at hself
      cases hst : u.state <;> simp [waitsAtReset, hst] at hw <;> simp [resetUse, waitsAtReset, hst, putUse, hself]
  rw [key]
  refine ⟨rfl, ?_, ?_, ?_, fun h => ⟨h, rfl, rfl⟩, ?_, fun d h _ => ⟨h, rfl, rfl⟩⟩
  · intro j
    by_cases hj : j = i
    · subst hj; simp
    · simp [hj, peek_poke_ne _ _ (fun h : i = j => hj h.symm)]
  · intro g; simp [hz]
  · intro b; simp [hf]
  · intro d _ h; exact absurd (hz _) h.1

/-- A slot and then those after it. -/
theorem ResetFold.cons {s t r : State} {i : SlotId} {l : List SlotId} (hi : i ∉ l) (h1 : ResetFold s [i] t)
    (h2 : ResetFold t l r) : ResetFold s (i :: l) r := by
  have hu : ∀ j, j ≠ i → slotUse t j = slotUse s j := by
    intro j hj; simp [slotUse, h1.slots j, hj]
  have hfr : freedUses t l = freedUses s l := freedUses_congr (fun j hj => hu j (fun e => hi (e ▸ hj)))
  have hsplit : freedUses s (i :: l) = freedUses s [i] ++ freedUses s l := by
    rw [show i :: l = [i] ++ l from rfl]; unfold freedUses; rw [List.filterMap_append, List.filter_append]
  have hsum : ∀ g, freedOf g (freedUses s (i :: l)) = freedOf g (freedUses s [i]) + freedOf g (freedUses s l) := by
    intro g; rw [hsplit]; simp [freedOf, List.countP_append]
  have hact : s.drain = none ∨ True → t.activeBank = s.activeBank := fun _ => by rw [h1.rest]
  refine ⟨?_, ?_, ?_, ?_, ?_, ?_, ?_⟩
  · rw [h2.rest]
    have : ∀ a b c d e f,
        ({ t with slots := a, counts := b, buffers := c, drain := d, bankA := e, bankB := f } : State) =
          { s with slots := a, counts := b, buffers := c, drain := d, bankA := e, bankB := f } := by
      intro a b c d e f; conv => lhs; rw [h1.rest]
    exact this _ _ _ _ _ _
  · intro j
    rw [h2.slots j]
    by_cases hj : j = i
    · subst hj; simp [hi, h1.slots]
    · simp only [List.mem_cons, hj, false_or, hu j hj, h1.slots j, List.not_mem_nil, if_false]
  · intro g
    rw [h2.counts, h1.counts, hfr, hsum]; omega
  · intro b
    rw [h2.buffers, h1.buffers, hfr, hsplit]
    by_cases ha : ∃ u ∈ freedUses s [i], u.fillLink = some (.leader b) <;>
      by_cases hb : ∃ u ∈ freedUses s l, u.fillLink = some (.leader b)
    · obtain ⟨u, hu1, hu2⟩ := hb
      rw [if_pos ⟨u, hu1, hu2⟩, if_pos ⟨u, by simp [hu1], hu2⟩]
    · rw [if_neg hb, if_pos ha]
      obtain ⟨u, hu1, hu2⟩ := ha
      rw [if_pos ⟨u, by simp [hu1], hu2⟩]
    · obtain ⟨u, hu1, hu2⟩ := hb
      rw [if_pos ⟨u, hu1, hu2⟩, if_pos ⟨u, by simp [hu1], hu2⟩]
    · rw [if_neg hb, if_neg ha, if_neg]
      rintro ⟨u, hu1, hu2⟩
      rcases List.mem_append.1 hu1 with h | h
      · exact ha ⟨u, h, hu2⟩
      · exact hb ⟨u, h, hu2⟩
  · intro hd
    obtain ⟨a, b, c⟩ := h1.noDrain hd
    obtain ⟨a', b', c'⟩ := h2.noDrain a
    exact ⟨a', b'.trans b, c'.trans c⟩
  · intro d hd ⟨h4, h5⟩
    rw [hsum] at h4 h5
    by_cases hx : freedOf d.generation (freedUses s [i]) ≠ 0 ∧
        peek s.counts (genIndex d.generation) ≤ freedOf d.generation (freedUses s [i])
    · obtain ⟨a, b, c⟩ := h1.drained d hd hx
      obtain ⟨a', b', c'⟩ := h2.noDrain a
      exact ⟨a', b'.trans b, c'.trans c⟩
    · obtain ⟨a, b, c⟩ := h1.draining d hd hx
      obtain ⟨a', b', c'⟩ := h2.drained d a (by rw [hfr, h1.counts]; omega)
      have : activeEntries t = activeEntries s := by simp [activeEntries, b, c, hact (Or.inr trivial)]
      exact ⟨a', b'.trans this, c'.trans this⟩
  · intro d hd h4
    rw [hsum] at h4
    obtain ⟨a, b, c⟩ := h1.draining d hd (by omega)
    obtain ⟨a', b', c'⟩ := h2.draining d a (by rw [hfr, h1.counts]; omega)
    exact ⟨a', b'.trans b, c'.trans c⟩

/-- The reset of slots one after another (R75), once every drain is suppressed (R19). -/
theorem resetSlot_foldl (l : List SlotId) : ∀ s : State, l.Nodup → (∀ d, s.drain = some d → d.suppressed = true) →
    ResetFold s l (l.foldl (fun s i => resetSlot i s) s) := by
  induction l with
  | nil => intro s _ _; exact ResetFold.nil s
  | cons i l ih =>
    intro s hn hs
    obtain ⟨hi, hl⟩ := List.nodup_cons.1 hn
    have h1 : ResetFold s [i] (resetSlot i s) := by
      cases hu : slotUse s i with
      | none => exact resetSlot_staying (by simp [hu])
      | some u =>
        cases hw : waitsAtReset u with
        | true => exact resetSlot_waiting hu hw hs
        | false => exact resetSlot_staying (by intro v hv; rw [hu] at hv; cases hv; exact hw)
    refine ResetFold.cons hi h1 (ih _ hl ?_)
    intro d hd
    cases hsd : s.drain with
    | none => rw [(h1.noDrain hsd).1] at hd; cases hd
    | some d' =>
      by_cases hx : freedOf d'.generation (freedUses s [i]) ≠ 0 ∧
          peek s.counts (genIndex d'.generation) ≤ freedOf d'.generation (freedUses s [i])
      · rw [(h1.drained d' hsd hx).1] at hd; cases hd
      · rw [(h1.draining d' hsd hx).1] at hd; cases hd; exact hs _ hsd

end Sys2Proof.Machine
end

