-- ==== Sys2Proof/WellFormed.lean ====
section
/-! DEFINITION. Which commands spell a packet that the layouts of 12_formats.md can give that kind. Values outside a field's
range are well formed: the arrival checks and the ports judge them (R22, R186). -/

namespace Sys2Proof

/-- A packet of unknown kind has a kind code of 8 to 15 (R185), and a Fault piece carries no data bytes: one that does is a
malformed message (R186). -/
def Instr.wellFormed : Instr → Bool
  | .unknownKindPacket kind _ => 8#4 ≤ kind
  | .completionPiece _ _ .fault _ _ data => data.isEmpty
  | _ => true

end Sys2Proof
end

