-- ==== Sys2Proof/Laws/PerInstr.lean ====
section
/-! SUPPORT. What holds of every command as syntax: a well-formed packet command, with every field at every value, is spelled by
some packet of the layouts of 12_formats.md; a command that is no packet is always well formed. -/

namespace Sys2Proof.Laws

/-- A field placed above `low` other bits is read back whole. -/
theorem field_middle {a b c : Nat} (x : BitVec a) (y : BitVec b) (z : BitVec c) (w : Word) (h : w.toNat = (x ++ y ++ z).toNat) :
    field w c b = y := by
  apply BitVec.eq_of_toNat_eq
  have hy := y.isLt
  have hz := z.isLt
  rw [field, BitVec.extractLsb'_toNat, h, BitVec.toNat_append, BitVec.toNat_append, Nat.shiftRight_or_distrib,
    Nat.shiftLeft_shiftRight, Nat.shiftRight_eq_div_pow z.toNat, Nat.div_eq_of_lt hz, Nat.or_zero, Nat.or_mod_two_pow,
    Nat.mod_eq_of_lt hy, Nat.shiftLeft_eq, Nat.mul_mod_left, Nat.zero_or]

/-- Some packet of the upstream layouts spells the command. -/
def SpelledUpstream (words : List Word) (data : List Byte) (i : Instr) : Prop := ∃ header, upstreamCommand header words data = i

/-- Some message of the downstream layouts spells the command. -/
def SpelledDownstream (port : Port) (data : List Byte) (i : Instr) : Prop := ∃ header, downstreamCommand port header [] data = i

/-- A packet command that is well formed is spelled by a packet; any other command is well formed. -/
def CommandRow.Statement (i : Instr) : Prop :=
  match i with
  | .postedWrite _ _ words data => SpelledUpstream words data i
  | .read _ _ _ words data => SpelledUpstream words data i
  | .nonPostedWrite _ _ _ words data => SpelledUpstream words data i
  | .exclusiveRead _ _ _ words data => SpelledUpstream words data i
  | .exclusiveWrite _ _ _ words data => SpelledUpstream words data i
  | .exclusiveRelease _ _ words data => SpelledUpstream words data i
  | .managementRequest _ _ _ _ words data => SpelledUpstream words data i
  | .serviceDone _ _ words data => SpelledUpstream words data i
  | .unknownKindPacket _ _ => i.wellFormed = true → ∀ words data, SpelledUpstream words data i
  | .readyMessage port _ _ => SpelledDownstream port [] i
  | .creditReturn port _ _ => SpelledDownstream port [] i
  | .receipt port _ => SpelledDownstream port [] i
  | .completionPiece port _ _ _ _ data => i.wellFormed = true → SpelledDownstream port data i
  | .interruptMessage port _ => SpelledDownstream port [] i
  | .malformedMessage port => SpelledDownstream port [] i
  | _ => i.wellFormed = true

/-- Appending is associative up to the width's form. -/
theorem toNat_append_assoc {a b c : Nat} (x : BitVec a) (y : BitVec b) (z : BitVec c) :
    (x ++ y ++ z).toNat = (x ++ (y ++ z)).toNat := by
  simp only [BitVec.toNat_append, Nat.shiftLeft_or_distrib, Nat.or_assoc, ← Nat.shiftLeft_add, Nat.add_comm b c]

/-! ## Upstream packets -/

/-- The word 0 of an upstream request: kind, agent, tag, a field of 9 bits and one of 9 bits above it (12.1). -/
def upstreamHeader (high low : BitVec 9) (tag : BitVec 6) (agent kind : BitVec 4) : Word := high ++ low ++ tag ++ agent ++ kind

theorem upstreamHeader_kind (high low : BitVec 9) (tag : BitVec 6) (agent kind : BitVec 4) :
    field (upstreamHeader high low tag agent kind) 0 4 = kind :=
  field_middle (high ++ low ++ tag ++ agent) kind (0#0) _ (by simp [upstreamHeader])

theorem upstreamHeader_agent (high low : BitVec 9) (tag : BitVec 6) (agent kind : BitVec 4) :
    field (upstreamHeader high low tag agent kind) 4 4 = agent :=
  field_middle (high ++ low ++ tag) agent kind _ rfl

theorem upstreamHeader_tag (high low : BitVec 9) (tag : BitVec 6) (agent kind : BitVec 4) :
    field (upstreamHeader high low tag agent kind) 8 6 = tag :=
  field_middle (high ++ low) tag (agent ++ kind) _ (toNat_append_assoc (high ++ low ++ tag) agent kind)

theorem upstreamHeader_low (high low : BitVec 9) (tag : BitVec 6) (agent kind : BitVec 4) :
    field (upstreamHeader high low tag agent kind) 14 9 = low :=
  field_middle high low (tag ++ (agent ++ kind)) _
    ((toNat_append_assoc (high ++ low ++ tag) agent kind).trans (toNat_append_assoc (high ++ low) tag (agent ++ kind)))

/-- The word 0 of a packet that carries an index or a vector: it stands above the tag, and an operation above it (12.1). -/
def indexHeader (operation : BitVec 4) (index : BitVec 7) (tag : BitVec 6) (agent kind : BitVec 4) : Word :=
  0#7 ++ operation ++ index ++ tag ++ agent ++ kind

theorem indexHeader_kind (operation : BitVec 4) (index : BitVec 7) (tag : BitVec 6) (agent kind : BitVec 4) :
    field (indexHeader operation index tag agent kind) 0 4 = kind :=
  field_middle (0#7 ++ operation ++ index ++ tag ++ agent) kind (0#0) _ (by simp [indexHeader])

theorem indexHeader_agent (operation : BitVec 4) (index : BitVec 7) (tag : BitVec 6) (agent kind : BitVec 4) :
    field (indexHeader operation index tag agent kind) 4 4 = agent :=
  field_middle (0#7 ++ operation ++ index ++ tag) agent kind _ rfl

theorem indexHeader_tag (operation : BitVec 4) (index : BitVec 7) (tag : BitVec 6) (agent kind : BitVec 4) :
    field (indexHeader operation index tag agent kind) 8 6 = tag :=
  field_middle (0#7 ++ operation ++ index) tag (agent ++ kind) _ (toNat_append_assoc _ agent kind)

theorem indexHeader_index (operation : BitVec 4) (index : BitVec 7) (tag : BitVec 6) (agent kind : BitVec 4) :
    field (indexHeader operation index tag agent kind) 14 7 = index :=
  field_middle (0#7 ++ operation) index (tag ++ (agent ++ kind)) _
    ((toNat_append_assoc _ agent kind).trans (toNat_append_assoc _ tag (agent ++ kind)))

theorem indexHeader_operation (operation : BitVec 4) (index : BitVec 7) (tag : BitVec 6) (agent kind : BitVec 4) :
    field (indexHeader operation index tag agent kind) 21 4 = operation :=
  field_middle 0#7 operation (index ++ (tag ++ (agent ++ kind))) _
    (((toNat_append_assoc _ agent kind).trans (toNat_append_assoc _ tag (agent ++ kind))).trans
      (toNat_append_assoc _ index (tag ++ (agent ++ kind))))

namespace CommandRow

theorem postedWrite (agent : BitVec 4) (length : BitVec 9) (words : List Word) (data : List Byte) :
    Statement (.postedWrite agent length words data) :=
  ⟨upstreamHeader 0 length 0 agent 0, by
    simp [upstreamCommand, upstreamHeader_kind, upstreamHeader_agent, upstreamHeader_low]⟩

theorem read (agent : BitVec 4) (tag : BitVec 6) (length : BitVec 9) (words : List Word) (data : List Byte) :
    Statement (.read agent tag length words data) :=
  ⟨upstreamHeader 0 length tag agent 1, by
    simp [upstreamCommand, upstreamHeader_kind, upstreamHeader_agent, upstreamHeader_tag, upstreamHeader_low]⟩

theorem nonPostedWrite (agent : BitVec 4) (tag : BitVec 6) (length : BitVec 9) (words : List Word) (data : List Byte) :
    Statement (.nonPostedWrite agent tag length words data) :=
  ⟨upstreamHeader 0 length tag agent 2, by
    simp [upstreamCommand, upstreamHeader_kind, upstreamHeader_agent, upstreamHeader_tag, upstreamHeader_low]⟩

theorem exclusiveRead (agent : BitVec 4) (tag : BitVec 6) (length : BitVec 9) (words : List Word) (data : List Byte) :
    Statement (.exclusiveRead agent tag length words data) :=
  ⟨upstreamHeader 0 length tag agent 3, by
    simp [upstreamCommand, upstreamHeader_kind, upstreamHeader_agent, upstreamHeader_tag, upstreamHeader_low]⟩

theorem exclusiveWrite (agent : BitVec 4) (tag : BitVec 6) (length : BitVec 9) (words : List Word) (data : List Byte) :
    Statement (.exclusiveWrite agent tag length words data) :=
  ⟨upstreamHeader 0 length tag agent 4, by
    simp [upstreamCommand, upstreamHeader_kind, upstreamHeader_agent, upstreamHeader_tag, upstreamHeader_low]⟩

theorem exclusiveRelease (agent : BitVec 4) (tag : BitVec 6) (words : List Word) (data : List Byte) :
    Statement (.exclusiveRelease agent tag words data) :=
  ⟨upstreamHeader 0 0 tag agent 5, by
    simp [upstreamCommand, upstreamHeader_kind, upstreamHeader_agent, upstreamHeader_tag]⟩

theorem managementRequest (agent : BitVec 4) (tag : BitVec 6) (operation : BitVec 4) (index : BitVec 7) (words : List Word)
    (data : List Byte) : Statement (.managementRequest agent tag operation index words data) :=
  ⟨indexHeader operation index tag agent 6, by
    simp [upstreamCommand, indexHeader_kind, indexHeader_agent, indexHeader_tag, indexHeader_index, indexHeader_operation]⟩

theorem serviceDone (agent : BitVec 4) (vector : BitVec 7) (words : List Word) (data : List Byte) :
    Statement (.serviceDone agent vector words data) :=
  ⟨indexHeader 0 vector 0 agent 7, by
    simp [upstreamCommand, indexHeader_kind, indexHeader_agent, indexHeader_index]⟩

theorem unknownKindPacket (kind agent : BitVec 4) : Statement (.unknownKindPacket kind agent) := by
  intro h words data
  refine ⟨upstreamHeader 0 0 0 agent kind, ?_⟩
  have hk : 8 ≤ kind.toNat := by simpa [Instr.wellFormed, BitVec.le_def] using h
  simp only [upstreamCommand, upstreamHeader_kind, upstreamHeader_agent]
  split <;> first | omega | rfl

end CommandRow

/-! ## Downstream messages -/

/-- The word 0 of a Ready message (12.2). -/
def readyHeader (posted nonPosted : BitVec 6) : Word := 0#16 ++ nonPosted ++ posted ++ 8#4

/-- The word 0 of a credit return (12.2). -/
def creditHeader (lane : BitVec 2) (count : BitVec 6) : Word := 0#20 ++ count ++ lane ++ 9#4

/-- The word 0 of a receipt (12.2). -/
def receiptHeader (seq : WriteSeq) : Word := 0#12 ++ seq ++ 10#4

/-- The word 0 of a completion piece (12.2). -/
def pieceHeader (tag : BitVec 8) (status : BitVec 2) (offset : BitVec 8) (count : BitVec 9) : Word :=
  0#1 ++ count ++ offset ++ status ++ tag ++ 11#4

/-- The word 0 of an interrupt message (12.2). -/
def interruptHeader (vector : BitVec 7) : Word := 0#21 ++ vector ++ 12#4

theorem pieceHeader_kind (tag : BitVec 8) (status : BitVec 2) (offset : BitVec 8) (count : BitVec 9) :
    field (pieceHeader tag status offset count) 0 4 = 11#4 :=
  field_middle (0#1 ++ count ++ offset ++ status ++ tag) 11#4 (0#0) _ (by simp [pieceHeader])

theorem pieceHeader_tag (tag : BitVec 8) (status : BitVec 2) (offset : BitVec 8) (count : BitVec 9) :
    field (pieceHeader tag status offset count) 4 8 = tag :=
  field_middle (0#1 ++ count ++ offset ++ status) tag 11#4 _ rfl

theorem pieceHeader_status (tag : BitVec 8) (status : BitVec 2) (offset : BitVec 8) (count : BitVec 9) :
    field (pieceHeader tag status offset count) 12 2 = status :=
  field_middle (0#1 ++ count ++ offset) status (tag ++ 11#4) _ (toNat_append_assoc _ tag 11#4)

theorem pieceHeader_offset (tag : BitVec 8) (status : BitVec 2) (offset : BitVec 8) (count : BitVec 9) :
    field (pieceHeader tag status offset count) 14 8 = offset :=
  field_middle (0#1 ++ count) offset (status ++ (tag ++ 11#4)) _
    ((toNat_append_assoc _ tag 11#4).trans (toNat_append_assoc _ status (tag ++ 11#4)))

theorem pieceHeader_count (tag : BitVec 8) (status : BitVec 2) (offset : BitVec 8) (count : BitVec 9) :
    field (pieceHeader tag status offset count) 22 9 = count :=
  field_middle 0#1 count (offset ++ (status ++ (tag ++ 11#4))) _
    (((toNat_append_assoc _ tag 11#4).trans (toNat_append_assoc _ status (tag ++ 11#4))).trans
      (toNat_append_assoc _ offset (status ++ (tag ++ 11#4))))

namespace CommandRow

theorem readyMessage (port : Port) (postedGrant nonPostedGrant : BitVec 6) :
    Statement (.readyMessage port postedGrant nonPostedGrant) := by
  refine ⟨readyHeader postedGrant nonPostedGrant, ?_⟩
  have hk : field (readyHeader postedGrant nonPostedGrant) 0 4 = 8#4 :=
    field_middle (0#16 ++ nonPostedGrant ++ postedGrant) 8#4 (0#0) _ (by simp [readyHeader])
  have hp : field (readyHeader postedGrant nonPostedGrant) 4 6 = postedGrant :=
    field_middle (0#16 ++ nonPostedGrant) postedGrant 8#4 _ rfl
  have hn : field (readyHeader postedGrant nonPostedGrant) 10 6 = nonPostedGrant :=
    field_middle 0#16 nonPostedGrant (postedGrant ++ 8#4) _ (toNat_append_assoc _ postedGrant 8#4)
  simp [downstreamCommand, hk, hp, hn]

theorem creditReturn (port : Port) (lane : Lane) (count : BitVec 6) : Statement (.creditReturn port lane count) := by
  have hk : ∀ l, field (creditHeader l count) 0 4 = 9#4 := fun l =>
    field_middle (0#20 ++ count ++ l) 9#4 (0#0) _ (by simp [creditHeader])
  have hl : ∀ l, field (creditHeader l count) 4 2 = l := fun l => field_middle (0#20 ++ count) l 9#4 _ rfl
  have hc : ∀ l, field (creditHeader l count) 6 6 = count := fun l =>
    field_middle 0#20 count (l ++ 9#4) _ (toNat_append_assoc _ l 9#4)
  cases lane with
  | posted => exact ⟨creditHeader 0 count, by simp [downstreamCommand, hk, hl, hc]⟩
  | nonPosted => exact ⟨creditHeader 1 count, by simp [downstreamCommand, hk, hl, hc]⟩

theorem receipt (port : Port) (seq : WriteSeq) : Statement (.receipt port seq) := by
  have hk : field (receiptHeader seq) 0 4 = 10#4 := field_middle (0#12 ++ seq) 10#4 (0#0) _ (by simp [receiptHeader])
  have hs : field (receiptHeader seq) 4 16 = seq := field_middle 0#12 seq 10#4 _ rfl
  exact ⟨receiptHeader seq, by simp [downstreamCommand, hk, hs]⟩

theorem completionPiece (port : Port) (tag : BitVec 8) (status : PieceStatus) (offset : BitVec 8) (count : BitVec 9)
    (data : List Byte) : Statement (.completionPiece port tag status offset count data) := by
  intro h
  cases status with
  | good =>
    exact ⟨pieceHeader tag 0 offset count, by
      simp [downstreamCommand, pieceHeader_kind, pieceHeader_tag, pieceHeader_status, pieceHeader_offset, pieceHeader_count]⟩
  | fault =>
    have hd : data.isEmpty = true := h
    exact ⟨pieceHeader tag 1 offset count, by
      simp [downstreamCommand, pieceHeader_kind, pieceHeader_tag, pieceHeader_status, pieceHeader_offset, pieceHeader_count,
        hd]⟩

theorem interruptMessage (port : Port) (vector : BitVec 7) : Statement (.interruptMessage port vector) := by
  have hk : field (interruptHeader vector) 0 4 = 12#4 :=
    field_middle (0#21 ++ vector) 12#4 (0#0) _ (by simp [interruptHeader])
  have hv : field (interruptHeader vector) 4 7 = vector := field_middle 0#21 vector 12#4 _ rfl
  exact ⟨interruptHeader vector, by simp [downstreamCommand, hk, hv]⟩

theorem malformedMessage (port : Port) : Statement (.malformedMessage port) := ⟨0, rfl⟩

/-! ## Events that are no packets -/

theorem coldReset : Statement .coldReset := rfl
theorem upstreamLinkReset : Statement .upstreamLinkReset := rfl
theorem postedIntakeExit : Statement .postedIntakeExit := rfl
theorem nonPostedIntakeExit : Statement .nonPostedIntakeExit := rfl
theorem postedWriteSend (port : Port) : Statement (.postedWriteSend port) := rfl
theorem nonPostedSend (port : Port) : Statement (.nonPostedSend port) := rfl
theorem portLinkFault (port : Port) : Statement (.portLinkFault port) := rfl
theorem completionTimerExpiry (slot : SlotId) : Statement (.completionTimerExpiry slot) := rfl
theorem orphanTimerExpiry (slot : SlotId) : Statement (.orphanTimerExpiry slot) := rfl
theorem holdTimerExpiry (port : Port) : Statement (.holdTimerExpiry port) := rfl
theorem commitDrainEnd : Statement .commitDrainEnd := rfl
theorem managementTake : Statement .managementTake := rfl
theorem undefinedOperation : Statement .undefinedOperation := rfl
theorem readRegister : Statement .readRegister := rfl
theorem readErrorQueueStatus : Statement .readErrorQueueStatus := rfl
theorem writeRegister : Statement .writeRegister := rfl
theorem writeManagementAgentMask : Statement .writeManagementAgentMask := rfl
theorem writeMissPolicy : Statement .writeMissPolicy := rfl
theorem writeCompletionTimeout : Statement .writeCompletionTimeout := rfl
theorem writeExclusiveHoldLimit : Statement .writeExclusiveHoldLimit := rfl
theorem writeAgentInterruptMasks : Statement .writeAgentInterruptMasks := rfl
theorem stageWindow : Statement .stageWindow := rfl
theorem readWindow : Statement .readWindow := rfl
theorem commitWindows : Statement .commitWindows := rfl
theorem portControlEnable : Statement .portControlEnable := rfl
theorem portControlDisable : Statement .portControlDisable := rfl
theorem portControlRestart : Statement .portControlRestart := rfl
theorem writeVector : Statement .writeVector := rfl
theorem readVector : Statement .readVector := rfl
theorem takeErrorRecord : Statement .takeErrorRecord := rfl
theorem bridgeTimeAdvance : Statement .bridgeTimeAdvance := rfl
theorem egressTransmission : Statement .egressTransmission := rfl

end CommandRow

end Sys2Proof.Laws
end

