-- ==== Sys2Proof/Laws/PortExit.lean ====
section
/-! SUPPORT. The steps of a port exit (R138), each as an update of the fields it changes: the discard of the queue, the buffers freed,
the slots marked, and the fence met by a slot that the break of the lock releases. -/

namespace Sys2Proof.Machine

/-- R51: the discard of a queue changes no slot. -/
theorem discardQueue_slots (p : Port) (c : DiscardCause) (s : State) : (discardQueue p c s).slots = s.slots := by
  have h : ∀ (l : List QueueEntry) (t : State), (l.foldl (fun s e => countDown e.generation s) t).slots = t.slots := by
    intro l
    induction l with
    | nil => exact fun t => rfl
    | cons e l ih => exact fun t => by rw [List.foldl_cons, ih, countDown_slots]
  unfold discardQueue
  dsimp only
  split
  · exact h _ _
  · rw [storeRecord_slots, h]

/-- R51: the discard of a queue changes no buffer and not the LRU list. -/
theorem discardQueue_buffers (p : Port) (c : DiscardCause) (s : State) :
    (discardQueue p c s).buffers = s.buffers ∧ (discardQueue p c s).lru = s.lru := by
  have h := FreeFrame.fold (fun (s : State) (e : QueueEntry) => countDown e.generation s)
    (fun s e => countDown_frame e.generation s) (peek s.pwqs p).entries
    { s with pwqs := poke s.pwqs p { peek s.pwqs p with entries := [] } }
  unfold discardQueue
  dsimp only
  split
  · exact ⟨h.buffers, h.lru⟩
  · rw [storeRecord_buffers, storeRecord_lru]
    exact ⟨h.buffers, h.lru⟩

/-- R106: the VALID buffers of the port become FREE and leave the LRU list. -/
theorem freeValidBuffers_eq (p : Port) (s : State) :
    freeValidBuffers p s =
      { s with
        buffers := s.buffers.map (fun b =>
          match b with
          | .valid k block => if k.port = p then .free else .valid k block
          | .free => .free
          | .filling k l fs => .filling k l fs
          | .stale k l fs => .stale k l fs)
        lru := s.lru.filter (fun b =>
          match peek s.buffers b with
          | .valid k _ => decide (k.port ≠ p)
          | _ => false) } := by
  unfold freeValidBuffers keepValid
  dsimp only
  congr 1
  apply List.filter_congr
  intro b _
  rw [peek_map]
  cases peek s.buffers b with
  | valid k block => by_cases h : k.port = p <;> simp [h, isValid]
  | free => rfl
  | filling _ _ _ => rfl
  | stale _ _ _ => rfl

/-- The mark of a slot that waits through an exit of its port (log 12). -/
theorem markWaiting_eq (p : Port) (x : Slot) :
    markWaiting p x =
      { x with
        use := x.use.map (fun u =>
          if u.port = p ∧ (u.state = .lockWait ∨ u.state = .fenceWait) then { u with exited := true } else u) } := by
  unfold markWaiting
  obtain ⟨e, x⟩ := x
  cases x with
  | none => rfl
  | some u => dsimp only [Option.map_some]; split <;> rfl

/-- R121: a slot released with the lock enters FENCE_WAIT if its fence holds it. -/
theorem meetFenceAtExit_eq (i : SlotId) (s : State) :
    meetFenceAtExit i s =
      match slotUse s i with
      | none => s
      | some u =>
        if mustWaitAtFence u s = true then
          { s with
            slots := poke s.slots i { epoch := (peek s.slots i).epoch, use := some { u with state := .fenceWait } }
            fenceOrder := insertByArrival (arrivalOf s) i s.fenceOrder }
        else s := by
  unfold meetFenceAtExit
  cases h : slotUse s i with
  | none => rfl
  | some u =>
    dsimp only
    split
    · unfold enterFenceWait
      dsimp only
      rw [arrivalOf_putUse (v := { u with state := .fenceWait }) h rfl]
      rfl
    · rfl

/-- R120, R121: whether the port's lock is broken, and with it the waiting order released. -/
theorem releasedByBreak_eq (p : Port) (s : State) :
    releasedByBreak p s = if peek s.locks p = .opened then [] else peek s.waiting p := by
  unfold releasedByBreak
  cases peek s.locks p <;> simp [lockOwner]

end Sys2Proof.Machine
end

