-- ==== Sys2Proof/Tests/Slice0.lean ====
section
/-! SUPPORT. Small tests of the model, each about one command on a small state: terms the checks refuse, packets read from words
written out by hand, one step of every command, and for every statement a state and operands that meet its hypotheses. -/

set_option Elab.async false

namespace Sys2Proof.Tests

open Sys2Proof Sys2Proof.Machine

/-! ## Terms the well-formedness checks refuse -/

theorem test_unknown_kind_below_8_refused : (Instr.unknownKindPacket 7 0).wellFormed = false := by decide

theorem test_unknown_kind_8_accepted : (Instr.unknownKindPacket 8 15).wellFormed = true := by decide

theorem test_fault_piece_with_data_refused : (Instr.completionPiece 0 0 .fault 0 0 [1]).wellFormed = false := by decide

theorem test_fault_piece_without_data_accepted : (Instr.completionPiece 0 0 .fault 0 0 []).wellFormed = true := by decide

/-! ## Packets read from words (12_formats.md) -/

/-- Kind 1, agent 5, tag 17, length 256: bits 3:0, 7:4, 13:8, 22:14. -/
theorem test_read_packet :
    upstreamCommand 0b000000000_100000000_010001_0101_0001 [0x12345678, 0x9A] [] =
      .read 5 17 256 [0x12345678, 0x9A] [] := by decide

theorem test_posted_write_packet :
    upstreamCommand 0b000000000_000000001_000000_0111_0000 [0, 0] [0xAB] = .postedWrite 7 1 [0, 0] [0xAB] := by decide

theorem test_exclusive_release_packet :
    upstreamCommand 0b000000000_000000000_011111_0010_0101 [] [] = .exclusiveRelease 2 31 [] [] := by decide

/-- Index 33 in bits 20:14 and operation 6 in bits 24:21. -/
theorem test_management_packet :
    upstreamCommand 0b0000000_0110_0100001_000011_0001_0110 [9] [] = .managementRequest 1 3 6 33 [9] [] := by decide

theorem test_service_done_packet :
    upstreamCommand 0b0000000_0000_0111111_000000_0100_0111 [] [] = .serviceDone 4 63 [] [] := by decide

theorem test_unknown_kind_packet : upstreamCommand 0x0000005B [] [] = .unknownKindPacket 11 5 := by decide

theorem test_ready_message_packet :
    downstreamCommand 2 0b0000000000000000_100000_010000_1000 [] [] = .readyMessage 2 16 32 := by decide

theorem test_credit_return_packet :
    downstreamCommand 1 0b00000000000000000000_000011_01_1001 [] [] = .creditReturn 1 .nonPosted 3 := by decide

theorem test_receipt_packet : downstreamCommand 0 0b000000000000_1000000000000001_1010 [] [] = .receipt 0 0x8001 := by decide

/-- Tag 51 is slot 12 in epoch 3 (12.2). -/
theorem test_piece_packet :
    downstreamCommand 3 0b0_000000010_00000100_00_00110011_1011 [] [7, 8] = .completionPiece 3 51 .good 4 2 [7, 8] ∧
      tagSlot 51 = 12 ∧ tagEpoch 51 = 3 := by decide

theorem test_interrupt_packet : downstreamCommand 0 0b000000000000000000000_0111111_1100 [] [] = .interruptMessage 0 63 := by
  decide

/-- A Fault piece with data, and a message of an undefined kind, are malformed (R186). -/
theorem test_malformed_messages :
    downstreamCommand 0 0b0_000000000_00000000_01_00000000_1011 [] [1] = .malformedMessage 0 ∧
      downstreamCommand 0 13 [] [] = .malformedMessage 0 := by decide

/-! ## Small states -/

/-- A window that gives every agent every right. -/
def window (page downPage : Page) (target : Target) (cls : OrderClass) (prefetchable : Bool) : WindowEntry :=
  { valid := true, base := page, limit := page, target, downBase := downPage, readRight := true, writeRight := true,
    exclusiveRight := true, agents := 255, prefetchable, cls, domain := 0 }

/-- A port in Active with grants 16 and 32 and the credits given. -/
def activePort (posted nonPosted : Nat) (winner : Lane) : PortRecord :=
  { state := .active, postedCredit := posted, nonPostedCredit := nonPosted, postedGrant := 16, nonPostedGrant := 32,
    lastWinner := winner, lastFault := none }

/-- Page 1 leads to D0, Strict; page 2 to a Sink; page 3 to D1, Relaxed and prefetchable; page 4 to D2, which is Disabled. D0 and
D1 are Active. -/
def base : State :=
  { State.reset with
    bankA := poke (poke (poke (poke State.reset.bankA 0 (window 1 0x100 (.port 0) .strict false))
      1 (window 2 0 .sink .strict false)) 2 (window 3 0x200 (.port 1) .relaxed true)) 3 (window 4 0 (.port 2) .strict false)
    ports := poke (poke State.reset.ports 0 (activePort 4 4 .nonPosted)) 1 (activePort 4 4 .nonPosted) }

/-- A SENT read of four bytes on D0. -/
def sentRead : SlotUse :=
  { state := .sent, agent := 1, tag := 2, kind := .read, arrival := 5, generation := 0, port := 0, address := 0x100010,
    length := 4, cls := .strict, domain := 0, prefetchable := false, writeData := [], received := List.replicate 4 none,
    fillLink := none, mute := false, expiry := 100, timeoutAtAllocation := 1024, exited := false }

/-- A state with a slot in use, its generation counted and its identifier outstanding. -/
def withSlot (i : SlotId) (u : SlotUse) (s : State) : State :=
  { s with
    slots := poke s.slots i { epoch := 1, use := some u }
    counts := poke s.counts (genIndex u.generation) (countOf u.generation s + 1)
    ids := poke s.ids (idIndex u.agent u.tag) true }

/-- A queue entry of D0. -/
def entry (arrival : Arrival) (sent : Option WriteSeq) : QueueEntry :=
  { arrival, generation := 0, domain := 0, address := 0x100020, length := 2, data := [1, 2], sent }

/-- A state with entries in D0's posted write queue, each counted. -/
def withQueue (entries : List QueueEntry) (next : WriteSeq) (s : State) : State :=
  { s with
    pwqs := poke s.pwqs 0 { entries, nextSeq := next }
    counts := poke s.counts 0 (peek s.counts 0 + entries.length) }

/-- A posted write to page 1. -/
def write : PostedEntry := { agent := 2, address := 0x1020, length := 2, data := [1, 2], arrival := 3 }

/-- A non-posted request to an address. -/
def request (k : SlotKind) (a : Addr) : NonPostedEntry := { agent := 1, tag := 2, body := .access k a 4 [], arrival := 4 }

/-- A management request of agent 0. -/
def order (operation : BitVec 4) (index : BitVec 6) (words : List Word) : ManagementEntry :=
  { agent := 0, tag := 3, operation, index, words, arrival := 0 }

/-- A state whose management unit executes a request. -/
def executing (r : ManagementEntry) (s : State) : State := { s with current := some r, ids := poke s.ids (idIndex r.agent r.tag) true }

/-- A vector entry InService to agent 3. -/
def served (again : Bool) : VectorEntry :=
  { enabled := true, mode := .rotate, agents := 255, fixedAgent := 0, cursor := 3, state := .inService 3, again }

/-- A state with vector 5 InService to agent 3. -/
def serving : State :=
  { base with vectors := poke base.vectors 5 (served false), serviceCounts := poke base.serviceCounts 3 1 }

/-- The state after a step that takes one command, if there is one. -/
def after (c : Instr) (s : State) : Option State :=
  match step { s with pending := [c] } with
  | .next t => some t
  | .fault _ => none
  | .refused _ => none

/-- Whether the step of one command leaves a state that passes a check. -/
def leaves (c : Instr) (s : State) (check : State → Bool) : Bool :=
  match after c s with
  | some t => check t
  | none => false

/-- The kinds of record a state holds, oldest first (12.4). -/
def kinds (s : State) : List Nat := s.records.map (fun r => (recordFields r.body).kind.toNat)

/-- The statuses of the completions in the egress queue, oldest first. -/
def statuses (s : State) : List Status :=
  s.egress.filterMap (fun x => match x with | .completion c => some c.status | .interrupt _ _ => none | .creditReturn _ => none)

/-! ## One step of every command -/

theorem test_coldReset :
    leaves .coldReset { serving with bridgeTime := 7, overflow := true } (fun t => t = State.reset) = true := by decide +kernel

theorem test_upstreamLinkReset :
    leaves .upstreamLinkReset (withSlot 3 sentRead base) (fun t =>
      slotUse t 3 = some { sentRead with mute := true } ∧ kinds t = [18] ∧ t.egress = [.interrupt 0 0]) = true := by
  decide +kernel

theorem test_postedWrite :
    leaves (.postedWrite 2 2 [0x1020, 0] [1, 2]) base (fun t =>
      (peek t.pwqs 0).entries = [entry 0 none] ∧ t.postedIntake = [] ∧ t.egress = [.creditReturn .posted] ∧
        t.arrivalCounter = 1) = true := by decide +kernel

/-- A write whose last byte is the last of its block passes check 4; one byte more does not (R22). -/
theorem test_postedWrite_at_block_boundary :
    leaves (.postedWrite 2 2 [0x10FE, 0] [1, 2]) base (fun t => kinds t = []) = true ∧
      leaves (.postedWrite 2 2 [0x10FF, 0] [1, 2]) base (fun t => kinds t = [1]) = true := by decide +kernel

theorem test_read :
    leaves (.read 1 2 4 [0x1010, 0] []) base (fun t =>
      t.nonPostedIntake = [{ agent := 1, tag := 2, body := .access .read 0x1010 4 [], arrival := 0 }] ∧
        outstanding 1 2 t = true) = true := by decide +kernel

theorem test_read_duplicate_tag :
    leaves (.read 1 2 4 [0x1010, 0] []) (withSlot 0 sentRead base) (fun t => kinds t = [2] ∧ t.nonPostedIntake = []) = true := by
  decide +kernel

theorem test_nonPostedWrite :
    leaves (.nonPostedWrite 1 31 1 [0x1010, 0xFF] [9]) base (fun t =>
      t.nonPostedIntake = [{ agent := 1, tag := 31, body := .access .nonPostedWrite 0xFF00001010 1 [9], arrival := 0 }]) =
      true := by decide +kernel

theorem test_exclusiveRead :
    leaves (.exclusiveRead 8 2 4 [0x1010, 0] []) base (fun t => kinds t = [1] ∧ t.nonPostedIntake = []) = true := by
  decide +kernel

theorem test_exclusiveWrite :
    leaves (.exclusiveWrite 7 0 1 [0x1010, 0] [9]) base (fun t => t.nonPostedIntake.length = 1) = true := by decide +kernel

theorem test_exclusiveRelease :
    leaves (.exclusiveRelease 7 0 [] []) base (fun t => t.nonPostedIntake.map (·.body) = [.release]) = true := by
  decide +kernel

theorem test_managementRequest :
    leaves (.managementRequest 0 3 0 13 [] []) base (fun t =>
      t.current = some (order 0 13 []) ∧ t.egress = [.creditReturn .management]) = true := by decide +kernel

theorem test_serviceDone :
    leaves (.serviceDone 3 5 [] []) serving (fun t =>
      (peek t.vectors 5).state = .idle ∧ peek t.serviceCounts 3 = 0) = true := by decide +kernel

theorem test_serviceDone_of_another_agent :
    leaves (.serviceDone 4 5 [] []) serving (fun t => kinds t = [16] ∧ peek t.serviceCounts 3 = 1) = true := by decide +kernel

theorem test_unknownKindPacket :
    leaves (.unknownKindPacket 8 1) base (fun t =>
      kinds t = [1] ∧ (peek t.vectors 0).state = .inService 0 ∧ t.egress = [.interrupt 0 0]) = true := by decide +kernel

theorem test_postedIntakeExit :
    leaves .postedIntakeExit { base with postedIntake := [write] } (fun t =>
      (peek t.pwqs 0).entries = [entry 3 none] ∧ t.postedIntake = []) = true := by decide +kernel

/-- A queue of 16 holds the head back (R10, R29). -/
theorem test_postedIntakeExit_full_queue :
    leaves .postedIntakeExit { withQueue (List.replicate 16 (entry 1 none)) 0 base with postedIntake := [write] } (fun t =>
      t.postedIntake = [write]) = true := by decide +kernel

theorem test_nonPostedIntakeExit :
    leaves .nonPostedIntakeExit { base with nonPostedIntake := [request .read 0x1010] } (fun t =>
      peek t.dispatch 0 = [0] ∧ (peek t.slots 0).epoch = 1 ∧ countOf 0 t = 1 ∧ t.egress = [.creditReturn .nonPosted]) =
      true := by decide +kernel

/-- A read of a prefetchable window leads the fill of its block (R98). -/
theorem test_nonPostedIntakeExit_leads_a_fill :
    leaves .nonPostedIntakeExit { base with nonPostedIntake := [request .read 0x3010] } (fun t =>
      peek t.buffers 0 = .filling { port := 1, block := 0x200000 } 0 [] ∧ peek t.dispatch 1 = [0]) = true := by decide +kernel

theorem test_postedWriteSend :
    leaves (.postedWriteSend 0) (withQueue [entry 1 (some 8), entry 2 none] 9 base) (fun t =>
      (peek t.pwqs 0).entries = [entry 1 (some 8), entry 2 (some 9)] ∧ (peek t.pwqs 0).nextSeq = 10 ∧
        (peek t.ports 0).postedCredit = 3 ∧ peek t.downstreamLinks 0 = [.postedWrite 9 0x100020 2 [1, 2]]) = true := by
  decide +kernel

theorem test_nonPostedSend :
    leaves (.nonPostedSend 0)
      { withSlot 12 { sentRead with state := .ready } base with dispatch := poke base.dispatch 0 [12] } (fun t =>
      slotUse t 12 = some sentRead ∧ peek t.dispatch 0 = [] ∧ peek t.downstreamLinks 0 = [.read 49 0x100010 4]) = true := by
  decide +kernel

theorem test_readyMessage :
    leaves (.readyMessage 2 16 32)
      { base with ports := poke base.ports 2 { PortRecord.reset with state := .waiting } } (fun t =>
      peek t.ports 2 = activePort 16 32 .nonPosted) = true := by decide +kernel

theorem test_readyMessage_grant_out_of_range :
    leaves (.readyMessage 2 17 32)
      { base with ports := poke base.ports 2 { PortRecord.reset with state := .waiting } } (fun t =>
      (peek t.ports 2).state = .failed ∧ (peek t.ports 2).lastFault = some .badReady ∧ kinds t = [12]) = true := by
  decide +kernel

theorem test_creditReturn :
    leaves (.creditReturn 0 .posted 12) base (fun t => (peek t.ports 0).postedCredit = 16) = true ∧
      leaves (.creditReturn 0 .posted 13) base (fun t => (peek t.ports 0).state = .failed) = true := by decide +kernel

theorem test_receipt :
    leaves (.receipt 0 8) (withQueue [entry 1 (some 8), entry 2 none] 9 base) (fun t =>
      (peek t.pwqs 0).entries = [entry 2 none] ∧ countOf 0 t = 1) = true := by decide +kernel

theorem test_receipt_of_another_number :
    leaves (.receipt 0 9) (withQueue [entry 1 (some 8)] 9 base) (fun t =>
      (peek t.pwqs 0).entries = [] ∧ countOf 0 t = 0 ∧ kinds t = [12, 7]) = true := by decide +kernel

theorem test_completionPiece :
    leaves (.completionPiece 0 49 .good 0 4 [1, 2, 3, 4]) (withSlot 12 sentRead base) (fun t =>
      slotUse t 12 = none ∧ outstanding 1 2 t = false ∧
        t.egress = [.completion { agent := 1, tag := 2, status := .done, data := [1, 2, 3, 4], words := [] }]) = true := by
  decide +kernel

theorem test_completionPiece_of_another_epoch :
    leaves (.completionPiece 0 50 .good 0 4 [1, 2, 3, 4]) (withSlot 12 sentRead base) (fun t =>
      kinds t = [11] ∧ slotUse t 12 = some sentRead) = true := by decide +kernel

theorem test_interruptMessage :
    leaves (.interruptMessage 0 63) { base with vectors := poke base.vectors 63 (VectorEntry.reset true) } (fun t =>
      t.egress = [.interrupt 0 63]) = true ∧
      leaves (.interruptMessage 0 64) base (fun t => kinds t = [15]) = true := by decide +kernel

theorem test_malformedMessage :
    leaves (.malformedMessage 0) (withSlot 12 sentRead base) (fun t =>
      kinds t = [12] ∧ slotUse t 12 = none ∧ statuses t = [.portLost]) = true := by decide +kernel

theorem test_portLinkFault :
    leaves (.portLinkFault 2) base (fun t => kinds t = []) = true ∧
      leaves (.portLinkFault 1) base (fun t => (peek t.ports 1).lastFault = some .linkFault) = true := by decide +kernel

/-- The exit of D0 with one Sent and one Queued write, a Held lock, and two slots: the records in their order, and the answers in
arrival order (R138). A disable makes the same exit, without a PortFault record (R137). -/
theorem test_port_exit :
    let s := withSlot 12 sentRead (withSlot 20 { sentRead with agent := 2, arrival := 4, kind := .nonPostedWrite, received := [] }
      (withQueue [entry 1 (some 8), entry 2 none] 9 { base with locks := poke base.locks 0 (.held 6 1 500) }))
    let answers (t : State) : List Agent :=
      t.egress.filterMap (fun x => match x with | .completion c => some c.agent | .interrupt _ _ => none | .creditReturn _ => none)
    leaves (.portLinkFault 0) s (fun t =>
        kinds t = [12, 7, 13] ∧ answers t = [2, 1] ∧ statuses t = [.portLost, .portLost] ∧ t.broken = 64 ∧
          t.records.map (·.body) =
            [.portFault 0 .active .linkFault none, .postedDiscarded 0 2 .failed, .exclusiveBroken 0 6 .held .portFailed]) = true ∧
      leaves .portControlDisable (executing (order 5 0 [2]) s) (fun t =>
        answers t = [2, 1, 0] ∧
          t.records.map (·.body) = [.postedDiscarded 0 2 .disabled, .exclusiveBroken 0 6 .held .portDisabled]) = true := by
  decide +kernel

theorem test_completionTimerExpiry :
    leaves (.completionTimerExpiry 12) (withSlot 12 sentRead { base with bridgeTime := 100 }) (fun t =>
      kinds t = [8] ∧ statuses t = [.expired] ∧ (slotUse t 12).map (·.state) = some .orphaned ∧
        (slotUse t 12).map (·.expiry) = some 131172) = true := by decide +kernel

theorem test_completionTimerExpiry_not_due :
    leaves (.completionTimerExpiry 12) (withSlot 12 sentRead { base with bridgeTime := 99 }) (fun t =>
      slotUse t 12 = some sentRead) = true := by decide +kernel

/-- A slot that waited in FENCE_WAIT through an exit of its port is answered PortLost when its timer expires (R88, R137). -/
theorem test_completionTimerExpiry_after_an_exit :
    leaves (.completionTimerExpiry 12)
      { withSlot 12 { sentRead with state := .fenceWait, exited := true } { base with bridgeTime := 100 } with
        fenceOrder := [12] } (fun t =>
      kinds t = [8] ∧ statuses t = [.portLost] ∧ slotUse t 12 = none ∧ t.fenceOrder = []) = true := by decide +kernel

theorem test_orphanTimerExpiry :
    leaves (.orphanTimerExpiry 12) (withSlot 12 { sentRead with state := .orphaned } { base with bridgeTime := 100 }) (fun t =>
      kinds t = [10] ∧ slotUse t 12 = none) = true := by decide +kernel

theorem test_holdTimerExpiry :
    leaves (.holdTimerExpiry 0) { base with locks := poke base.locks 0 (.held 6 1 0) } (fun t =>
      kinds t = [13] ∧ peek t.locks 0 = .opened ∧ t.broken = 64) = true := by decide +kernel

/-- The waiting order holds an exclusive read that waited through an exit of its port, and a later read of another agent: the first
claims the lock, is answered PortLost at the ready point, and the lock opens again for the second (R118, R127, R113). -/
theorem test_holdTimerExpiry_claim_answered :
    let exited := { sentRead with kind := .exclusiveRead, state := .lockWait, exited := true }
    let later := { sentRead with agent := 2, tag := 3, arrival := 7, state := .lockWait }
    leaves (.holdTimerExpiry 0)
      { withSlot 3 exited (withSlot 12 later base) with
        locks := poke base.locks 0 (.held 6 1 0), waiting := poke base.waiting 0 [3, 12] } (fun t =>
      statuses t = [.portLost] ∧ peek t.locks 0 = .opened ∧ peek t.waiting 0 = [] ∧ peek t.dispatch 0 = [12]) = true := by
  decide +kernel

theorem test_commitDrainEnd :
    leaves .commitDrainEnd { base with drain := some { generation := 255, agent := 0, tag := 3, suppressed := false } } (fun t =>
      t.drain = none ∧ t.bankB = base.bankA ∧ statuses t = [.done]) = true := by decide +kernel

theorem test_managementTake :
    leaves .managementTake { base with managementIntake := [order 0 0 [], order 0 1 []] } (fun t =>
      t.current = some (order 0 0 []) ∧ t.managementIntake = [order 0 1 []]) = true := by decide +kernel

theorem test_undefinedOperation :
    leaves .undefinedOperation (executing (order 9 0 []) base) (fun t => statuses t = [.invalid] ∧ t.current = none) = true := by
  decide +kernel

theorem test_readRegister :
    leaves .readRegister (executing (order 0 0 []) base) (fun t =>
      t.egress = [.completion { agent := 0, tag := 3, status := .done, data := [], words := [0x024160D5] }]) = true := by
  decide +kernel

/-- Sixteen entries of which four are Sent make the occupancy byte 140, and all sixteen Sent make 152 (12.5). -/
theorem test_occupancy_byte :
    occupancyByte { entries := List.replicate 4 (entry 0 (some 0)) ++ List.replicate 12 (entry 0 none), nextSeq := 0 } = 140 ∧
      occupancyByte { entries := List.replicate 16 (entry 0 (some 0)), nextSeq := 0 } = 152 := by decide +kernel

theorem test_readErrorQueueStatus :
    leaves .readErrorQueueStatus (executing (order 0 6 []) { base with overflow := true }) (fun t =>
      t.overflow = false ∧
        t.egress = [.completion { agent := 0, tag := 3, status := .done, data := [], words := [0x80000000] }]) = true := by
  decide +kernel

theorem test_writeRegister :
    leaves .writeRegister (executing (order 1 0 [5]) base) (fun t => statuses t = [.invalid]) = true := by decide +kernel

theorem test_writeManagementAgentMask :
    leaves .writeManagementAgentMask (executing (order 1 1 [0x1FF]) base) (fun t => t.managementMask = 255) = true ∧
      leaves .writeManagementAgentMask (executing (order 1 1 [0x100]) base) (fun t =>
        t.managementMask = 1 ∧ statuses t = [.invalid]) = true := by decide +kernel

theorem test_writeMissPolicy :
    leaves .writeMissPolicy (executing (order 1 2 [2]) base) (fun t => t.missRecords = false) = true := by decide +kernel

theorem test_writeCompletionTimeout :
    leaves .writeCompletionTimeout (executing (order 1 3 [4095]) base) (fun t => t.timeout = 4095) = true := by decide +kernel

theorem test_writeExclusiveHoldLimit :
    leaves .writeExclusiveHoldLimit (executing (order 1 4 [0x1000]) base) (fun t =>
      t.holdLimit = 256 ∧ statuses t = [.invalid]) = true := by decide +kernel

theorem test_writeAgentInterruptMasks :
    leaves .writeAgentInterruptMasks (executing (order 1 5 [0xF0]) base) (fun t => t.agentMasks = 0xF0) = true := by
  decide +kernel

theorem test_stageWindow :
    leaves .stageWindow (executing (order 2 31 [0xC0000001, 0x30000002, 0, 1]) base) (fun t =>
      peek t.bankB 31 =
        { valid := true, base := 1, limit := 2, target := .sink, downBase := 0, readRight := true, writeRight := true,
          exclusiveRight := false, agents := 1, prefetchable := false, cls := .strict, domain := 0 }) = true := by
  decide +kernel

theorem test_stageWindow_empty_range :
    leaves .stageWindow (executing (order 2 31 [0xC0000002, 0x30000001, 0, 1]) base) (fun t =>
      statuses t = [.invalid] ∧ t.bankB = base.bankB) = true := by decide +kernel

theorem test_readWindow :
    leaves .readWindow (executing (order 3 1 [0]) base) (fun t =>
      t.egress =
        [.completion
          { agent := 0, tag := 3, status := .done, data := [], words := [0xC0000002, 0x70000002, 0, 255] }]) = true := by
  decide +kernel

theorem test_commitWindows :
    leaves .commitWindows (executing (order 4 0 []) base) (fun t =>
      t.activeBank = .b ∧ t.generation = 1 ∧ t.drain = none ∧ statuses t = [.done] ∧ t.bankA = State.reset.bankB) = true := by
  decide +kernel

theorem test_commitWindows_drains :
    leaves .commitWindows (executing (order 4 0 []) (withSlot 12 sentRead base)) (fun t =>
      t.drain = some { generation := 0, agent := 0, tag := 3, suppressed := false } ∧ statuses t = []) = true := by
  decide +kernel

theorem test_portControlEnable :
    leaves .portControlEnable (executing (order 5 3 [1]) base) (fun t =>
      (peek t.ports 3).state = .waiting ∧ statuses t = [.done]) = true := by decide +kernel

theorem test_portControlDisable :
    leaves .portControlDisable (executing (order 5 0 [2]) (withSlot 12 sentRead base)) (fun t =>
      (peek t.ports 0).state = .disabled ∧ statuses t = [.portLost, .done]) = true := by decide +kernel

theorem test_portControlRestart :
    leaves .portControlRestart (executing (order 5 0 [3]) base) (fun t => statuses t = [.invalid]) = true := by decide +kernel

theorem test_writeVector :
    leaves .writeVector (executing (order 6 7 [0x0C1D]) base) (fun t =>
      peek t.vectors 7 =
        { enabled := true, mode := .leastBusy, agents := 0x0C, fixedAgent := 3, cursor := 7, state := .idle, again := false }) =
      true := by decide +kernel

theorem test_readVector :
    leaves .readVector (executing (order 7 5 []) serving) (fun t =>
      t.egress = [.completion { agent := 0, tag := 3, status := .done, data := [], words := [0xFF03, 0x3A3] }]) = true := by
  decide +kernel

theorem test_takeErrorRecord :
    leaves .takeErrorRecord
      (executing (order 8 0 []) { base with records := [{ time := 9, body := .upstreamReset 3 }] }) (fun t =>
      t.records = [] ∧
        t.egress =
          [.completion
            { agent := 0, tag := 3, status := .done, data := [], words := [0x812, 9, 0, 0xC0] }]) = true := by
  decide +kernel

/-- A Malformed record with no optional field but the cause, and an ExclusiveMisuse record of agent 7 and tag 31, for an exclusive
write in window 31, with the cause Sink (12.4). -/
theorem test_record_words :
    recordWords { time := 9, body := .malformed .dataCount none none none } = [0x40001, 9, 5, 0] ∧
      recordWords { time := 9, body := .exclusiveMisuse 7 31 .exclusiveWrite .sink (some 31) } =
        [0b100_00_11111_111_10010000010011_01110, 9, 0b11111_0101, 0] := by decide +kernel

/-- Among the numbers 3, 5 and 9 the arrival-number position of another 5 is after the 5 there, and that of 2^32 - 1 is first of all,
since R26 makes it earlier than 3. -/
theorem test_arrival_position :
    let number (i : SlotId) : Arrival := if i = 0 then 3 else if i = 1 then 5 else if i = 2 then 9 else if i = 3 then 5 else 0xFFFFFFFF
    insertByArrival number 3 [0, 1, 2] = [0, 1, 3, 2] ∧ insertByArrival number 4 [0, 1, 2] = [4, 0, 1, 2] ∧
      mergeByArrival number [3, 4] [0, 1, 2] = [4, 0, 1, 3, 2] := by decide +kernel

theorem test_bridgeTimeAdvance :
    leaves .bridgeTimeAdvance { base with bridgeTime := 0xFFFFFFFF } (fun t => t.bridgeTime = 0) = true := by decide +kernel

theorem test_egressTransmission :
    leaves .egressTransmission { base with egress := [.creditReturn .posted, .interrupt 1 2] } (fun t =>
      t.egress = [.interrupt 1 2] ∧ t.upstreamLink = [.creditReturn .posted]) = true := by decide +kernel

/-! ## Witnesses: states and operands that meet the hypotheses of the statements

Each names its statement; the values are at the edges of the ranges the statement names. -/

theorem witness_StepRunsTheFrontCommand :
    { base with pending := [Instr.coldReset] }.pending = Instr.coldReset :: [] ∧ base.pending = [] := by decide +kernel

/-- A drain of generation 0. -/
def draining (s : State) : State := { s with drain := some { generation := 0, agent := 0, tag := 3, suppressed := false } }

/-- No drain; a drain that the slot freed ends; a drain that a queue entry keeps up, and one that a SENT slot does. -/
theorem witness_UpstreamLinkResetClears :
    let ends (s : State) : Bool :=
      match after .upstreamLinkReset s with
      | some t => t.drain.isNone
      | none => false
    let waiting := { sentRead with state := .fenceWait }
    base.drain = none ∧ ends (draining (withSlot 12 waiting base)) = true ∧
      ends (draining (withSlot 12 waiting (withQueue [entry 1 none] 0 base))) = false ∧
      ends (draining (withSlot 12 sentRead base)) = false := by decide +kernel

theorem witness_PostedWriteJoinsItsIntake :
    (1 ≤ (1#9).toNat ∧ (256#9).toNat ≤ 256 ∧ (0x10FF#32).toNat % 256 + (1#9).toNat ≤ 256 ∧
        (0x1000#32).toNat % 256 + (256#9).toNat ≤ 256 ∧ (List.replicate 256 (0 : Byte)).length = (256#9).toNat) ∧
      base.postedIntake = [] ∧ { base with postedIntake := List.replicate 15 write }.postedIntake.length < 16 := by
  decide +kernel

theorem witness_NonPostedRequestsJoinTheirIntake :
    peek base.ids (idIndex 7 31) = false ∧
      { base with nonPostedIntake := List.replicate 15 (request .read 0x1010) }.nonPostedIntake.length < 16 := by decide +kernel

theorem witness_ManagementRequestsAreTakenInTurn :
    (63#7).toNat < 64 ∧ [0#32, 0, 0, 0].length ≤ 4 ∧ peek base.ids (idIndex 0 3) = false ∧
      base.managementIntake.length < 2 ∧ base.managementIntake = [] ∧ base.current = none ∧
      (executing (order 0 0 []) { base with managementIntake := [order 0 1 []] }).managementIntake.length < 2 ∧
      { base with managementIntake := [order 0 1 []] }.current = none := by decide +kernel

theorem witness_FailedChecksDropThePacket :
    8 ≤ (8#4).toNat ∧ 32 ≤ (32#6).toNat ∧ (0#9).toNat = 0 ∧ 256 < (257#9).toNat ∧
      256 < (0x10FF#32).toNat % 256 + (2#9).toNat ∧ (0x10FF#32).toNat % 256 + (1#9).toNat ≤ 256 ∧
      ([0x1000#32].length < 2 ∧ 2 ≤ [0x1000#32, 0].length) ∧ [1#8].length ≠ (2#9).toNat ∧
      (64 ≤ (64#7).toNat ∧ (63#7).toNat < 64 ∧ 4 < [0#32, 0, 0, 0, 0].length ∧ [0#32, 0, 0, 0].length ≤ 4) ∧
      ([0#32] ≠ [] ∧ [1#8] ≠ []) ∧
      peek (withSlot 12 sentRead base).ids (idIndex 1 2) = true ∧ peek base.ids (idIndex 1 2) = false ∧
      16 ≤ { base with nonPostedIntake := List.replicate 16 (request .read 0x1010) }.nonPostedIntake.length ∧
      16 ≤ { base with postedIntake := List.replicate 16 write }.postedIntake.length ∧
      2 ≤ { base with managementIntake := [order 0 0 [], order 0 1 []] }.managementIntake.length := by decide +kernel

/-- A state whose error record queue holds a number of records. -/
def recorded (n : Nat) (s : State) : State := { s with records := List.replicate n { time := 0, body := .upstreamReset 0 } }

theorem witness_RecordsAreStoredOrLost :
    (recorded 31 base).records.length < 32 ∧ 32 ≤ (recorded 32 base).records.length ∧ (recorded 0 base).records = [] ∧
      (recorded 1 base).records ≠ [] := by decide +kernel

theorem witness_TakeErrorRecordTakesTheOldest :
    let s := executing (order 8 0 []) (recorded 32 base)
    s.current = some (order 8 0 []) ∧ (order 8 0 []).operation = 8 ∧ (order 8 0 []).words = [] ∧
      hasAgent s.managementMask 0 = true ∧ s.records ≠ [] ∧ (executing (order 8 0 []) base).records = [] := by decide +kernel

theorem witness_LookupFindsTheLowestEntry :
    lookup 0x1000 base = some 0 ∧ lookup 0x3FFF base = some 2 ∧ lookup 0x5000 base = none ∧
      (0x3F00#40).toNat % 256 + 255 < 256 ∧ (0x3FFF#40).extractLsb' 12 28 = (0x3F00#40).extractLsb' 12 28 := by decide +kernel

theorem witness_DecodeFollowsTheTable :
    let w := peek base.bankA
    lookup 0x5000 base = none ∧ lookup 0x1000 base = some 0 ∧ lookup 0x2000 base = some 1 ∧ lookup 0x4000 base = some 3 ∧
      (hasAgent (w 0).agents 7 = true ∧ hasRights (w 0) (.nonPosted .exclusiveWrite) = true) ∧
      hasRights { w 0 with exclusiveRight := false } (.nonPosted .exclusiveWrite) = false ∧
      ((w 1).target = .sink ∧ hasAgent (w 1).agents 0 = true ∧ hasRights (w 1) .posted = true) ∧
      ((w 3).target = .port 2 ∧ portInService 2 base = false) ∧
      ((w 0).target = .port 0 ∧ portInService 0 base = true) := by decide +kernel

/-- Agent 6 holds D1's lock, owns D3's by a claim and has an exclusive read in LOCK_WAIT on D0; agent 5 owns none. -/
def sequences : State :=
  { withSlot 12 { sentRead with agent := 6, kind := .exclusiveRead, state := .lockWait } base with
    locks := poke (poke base.locks 1 (.held 6 1 0)) 3 (.claimed 6 2 0) }

theorem witness_DecodeFollowsTheTable_exclusive :
    (peek sequences.locks 1 = .held 6 1 0 ∧ peek sequences.locks 3 = .claimed 6 2 0 ∧ peek sequences.locks 0 = .opened) ∧
      (slotUse sequences 12).map (fun u => (u.state, u.kind, u.agent)) = some (.lockWait, .exclusiveRead, 6) ∧
      ((∀ p, ownsPort 5 p sequences = false) ∧ sequenceInProgress 5 sequences = false ∧ sequenceInProgress 6 sequences = true) ∧
      ((0b01000000#8).getLsbD 6 = true ∧ sequences.broken.getLsbD 6 = false) ∧
      ((peek base.bankA 2).cls = .relaxed ∧ (peek base.bankA 2).prefetchable = true ∧ (peek base.bankA 0).cls ≠ .relaxed) := by
  decide +kernel

/-- A head for D0, whose queue holds a number of entries. -/
def waitingHead (n : Nat) : State := { withQueue (List.replicate n (entry 1 none)) 0 base with postedIntake := [write] }

/-- Whether a decode gives an entry for D0. -/
def forPortZero (d : Decoded) : Bool :=
  match d with
  | .work r => decide (r.port = 0)
  | _ => false

/-- An exclusive read that claims D0's lock and waits at its fence since before an exit of D0. -/
def lostClaim (exited : Bool) : State :=
  { withSlot 3 { sentRead with kind := .exclusiveRead, state := .fenceWait, exited } base with
    locks := poke base.locks 0 (.claimed 1 5 3) }

theorem witness_PostedHeadLeavesOrStays_turn :
    slotUse base 3 = none ∧ (3 ∉ (lostClaim true).fenceOrder ∧ portInService 0 (lostClaim true) = true) ∧
      (slotUse (lostClaim true) 3).map (fun u => (u.state, u.exited)) = some (.fenceWait, true) ∧
      (slotUse (lostClaim false) 3).map (fun u => (u.state, u.exited)) = some (.fenceWait, false) ∧
      (statuses (takeTurn 3 (lostClaim true)) = [.portLost] ∧ peek (takeTurn 3 (lostClaim true)).locks 0 = .opened) ∧
      (slotUse (takeTurn 3 (lostClaim false)) 3).map (·.state) = some .ready ∧
      slotUse (takeTurn 3 { lostClaim true with fenceOrder := [3] }) 3 = slotUse (lostClaim true) 3 := by decide +kernel

theorem witness_PostedHeadLeavesOrStays :
    base.postedIntake = [] ∧ (waitingHead 16).postedIntake = write :: [] ∧
      forPortZero (decode .posted write.agent write.address write.length (waitingHead 16)) = true ∧
      16 ≤ (peek (waitingHead 16).pwqs 0).entries.length ∧
      forPortZero (decode .posted write.agent write.address write.length (waitingHead 15)) = true ∧
      (peek (waitingHead 15).pwqs 0).entries.length < 16 := by decide +kernel

/-- Every slot but the last in use, with one port locked: no slot may be given. -/
def crowded : State :=
  { base with
    slots := poke (Vector.replicate 64 { epoch := 0, use := some sentRead }) 63 { epoch := 0, use := none }
    locks := poke base.locks 1 (.claimed 6 1 0)
    nonPostedIntake := [request .read 0x1010, request .read 0x2010] }

/-- Two entries 2^31 + 1 numbers apart, the younger of which the comparison of R26 makes the earlier. -/
def aged : State :=
  { base with nonPostedIntake := [{ request .read 0x2010 with arrival := 0 }, { request .read 0x2010 with arrival := 0x80000001 }] }

theorem witness_OldestEligibleEntryLeaves :
    (∀ e ∈ base.nonPostedIntake, mayLeave base e = false) ∧
      crowded.nonPostedIntake.filter (mayLeave crowded) = request .read 0x2010 :: [] ∧
      ((0x80000001 - 0 : Arrival).toInt < 0 ∧ 0 < (0 - 0x80000001 : Arrival).toInt) ∧
      aged.nonPostedIntake.filter (mayLeave aged) =
        { request .read 0x2010 with arrival := 0 } :: [{ request .read 0x2010 with arrival := 0x80000001 }] ∧
      (oldestEligible aged).map (·.arrival) = some 0x80000001 ∧
      forPortZero (decode (.nonPosted .read) 1 0x1010 4 crowded) = true ∧ lockedPorts crowded = freeCount crowded ∧
      (peek crowded.locks 1 = .claimed 6 1 0 ∧ forPortZero (decode (.nonPosted .read) 6 0x1010 4 crowded) = true ∧
        mayLeave crowded { request .read 0x1010 with agent := 6 } = true) ∧
      forPortZero (decode (.nonPosted .read) 1 0x2010 4 crowded) = false ∧
      mayLeave base { agent := 1, tag := 2, body := .release, arrival := 0 } = true := by decide +kernel

/-- An exclusive read in LOCK_WAIT on D0. -/
def lockedRead : SlotUse := { sentRead with kind := .exclusiveRead, state := .lockWait }

theorem witness_ReleaseIsJudgedByItsAgentsLock :
    (holdsPort 6 3 { base with locks := poke base.locks 3 (.held 6 1 0) } = true ∧
        ∀ q, q < 3 → holdsPort 6 q { base with locks := poke base.locks 3 (.held 6 1 0) } = false) ∧
      ((∀ p, holdsPort 6 p base = false) ∧ hasAgent (addAgent base.broken 6) 6 = true ∧ hasAgent base.broken 6 = false) ∧
      ((∀ p, holdsPort 6 p crowded = false) ∧ ownsLock 6 crowded = true ∧ ownsLock 6 base = false) ∧
      (slotUse crowded 0 = some sentRead ∧ sentRead.kind ≠ .exclusiveRead) ∧
      slotUse (withSlot 12 lockedRead base) 12 = some lockedRead ∧ lockedRead.kind = .exclusiveRead ∧
      portInService 0 base = true ∧ slotUse (meetFence 12 (claimLock 0 12 lockedRead (withSlot 12 lockedRead base))) 12 ≠ none ∧
      (let lost := { lockedRead with exited := true }
      slotUse (meetFence 12 (claimLock 0 12 lost (withSlot 12 lost base))) 12 = none) ∧
      slotUse base 12 = none := by decide +kernel

theorem witness_AllocationGivesTheLowestFreeSlot :
    (slotUse base 0 = none ∧ ∀ j, j < 0 → slotUse base j ≠ none) ∧
      slotUse crowded 63 = none ∧ ∀ j, j < 63 → slotUse crowded j ≠ none := by decide +kernel

/-- D0's lock held by agent 6 since arrival number 4. -/
def locked : State := { base with locks := poke base.locks 0 (.held 6 4 0) }

/-- A fence: D0's queue holds an entry with arrival number 4. -/
def fenced : State := withQueue [entry 4 none] 0 base

theorem witness_FirstStateFollowsTheCases :
    slotUse (withSlot 12 sentRead locked) 12 = some sentRead ∧
      (lockOwner (peek locked.locks 0) = some 6 ∧ lockArrival (peek locked.locks 0) = some 4 ∧ (6 : Agent) ≠ sentRead.agent ∧
        0 < (sentRead.arrival - 4).toInt) ∧
      ((5 - 5 : Arrival).toInt = 0 ∧ { sentRead with kind := .exclusiveRead }.kind = SlotKind.exclusiveRead) ∧
      peek base.locks 0 = .opened ∧
      (sentRead.cls = .strict ∧ ∃ e ∈ (peek fenced.pwqs 0).entries, e.domain = sentRead.domain ∧
        0 < (sentRead.arrival - e.arrival).toInt) ∧
      (∀ e ∈ (peek base.pwqs 0).entries, e.domain ≠ sentRead.domain) := by decide +kernel

/-- A claim by agent 6 moves agent 1's later slot from FENCE_WAIT, and from READY, to the waiting order. -/
theorem witness_FirstStateFollowsTheCases_claim :
    let claim : SlotUse := { sentRead with agent := 6, arrival := 4, kind := .exclusiveRead }
    let moved (st : SlotState) : State :=
      claimLock 0 3 claim
        { withSlot 12 { sentRead with state := st } (withSlot 3 claim base) with
          fenceOrder := [12], dispatch := poke base.dispatch 0 [12] }
    (peek (moved .fenceWait).waiting 0 = [12] ∧ (moved .fenceWait).fenceOrder = []) ∧
      peek (moved .ready).waiting 0 = [12] ∧ peek (moved .ready).dispatch 0 = [] := by decide +kernel

/-- A prefetchable read of D1. -/
def bufferedRead : SlotUse := { sentRead with port := 1, address := 0x200010, prefetchable := true, cls := .relaxed }

/-- The key of its block. -/
def blockKey : BufferKey := { port := 1, block := 0x200000 }

theorem witness_ReadyPointFollowsTheCases :
    let slot := withSlot 12 bufferedRead
    slotUse (slot base) 12 = some bufferedRead ∧ portInService 1 base = true ∧ portInService 2 base = false ∧
      bufferedRead.exited = false ∧ leadsFill bufferedRead = false ∧
      leadsFill { bufferedRead with fillLink := some (.leader 7) } = true ∧
      (bufferedRead.kind = .read ∧ bufferedRead.prefetchable = true) ∧ { port := 1, block := blockOf 0x200010 } = blockKey ∧
      findValid blockKey (putBuffer 7 (.valid blockKey [1]) (slot base)) = some (7, [1]) ∧
      findValid blockKey (slot base) = none ∧ findFilling blockKey (slot base) = none ∧
      findFilling blockKey (putBuffer 7 (.filling blockKey 3 []) (slot base)) = some 7 ∧
      blockQueued blockKey (slot base) = false ∧ obtainable (slot base) = some 0 ∧
      (peek (putBuffer 0 (.stale blockKey 3 []) base).buffers 1 = .free ∧
        (∀ c, c < 1 → peek (putBuffer 0 (.stale blockKey 3 []) base).buffers c ≠ .free)) ∧
      (∀ b, peek { base with buffers := Vector.replicate 8 (.filling blockKey 3 []) }.buffers b ≠ .free) ∧
      obtainable { base with buffers := Vector.replicate 8 (.filling blockKey 3 []) } = none ∧
      blockQueued { port := 0, block := 0x100000 } fenced = true := by decide +kernel

theorem witness_PostedLaneSendsItsOldestEntry :
    let s := withQueue [entry 1 (some 8), entry 2 none] 9 base
    (peek s.pwqs 0).entries = [entry 1 (some 8)] ++ entry 2 none :: [] ∧ (∀ x ∈ [entry 1 (some 8)], x.sent ≠ none) ∧
      (entry 2 none).sent = none ∧ (peek s.ports 0).state = .active ∧ 0 < (peek s.ports 0).postedCredit ∧
      lockArrival (peek s.locks 0) = none ∧ peek s.dispatch 0 = [] ∧ (peek s.ports 0).lastWinner = .nonPosted ∧
      (lockArrival (peek locked.locks 0) = some 4 ∧ 0 < ((entry 5 none).arrival - 4).toInt) ∧
      (∀ x ∈ (peek base.pwqs 0).entries, x.sent ≠ none) ∧ (peek base.ports 2).state ≠ .active := by decide +kernel

theorem witness_NonPostedLaneSendsItsOldestSlot :
    let s := { withSlot 12 { sentRead with state := .ready } base with dispatch := poke base.dispatch 0 [12] }
    peek base.dispatch 0 = [] ∧ peek s.dispatch 0 = 12 :: [] ∧ slotUse s 12 = some { sentRead with state := .ready } ∧ (peek s.ports 0).state = .active ∧
      0 < (peek s.ports 0).nonPostedCredit ∧ postedOffers 0 s = false ∧
      (postedOffers 0 (withQueue [entry 1 none] 0 base) = true ∧ 0 < (peek base.ports 0).postedCredit ∧
        (peek (withQueue [entry 1 none] 0 base).pwqs 0).entries = [] ++ entry 1 none :: [] ∧ peek base.locks 0 = .opened) ∧
      (peek base.ports 0).lastWinner = .nonPosted := by
  decide +kernel

theorem witness_ReadyMessageOpensTheLanes :
    (1 ≤ (1#6).toNat ∧ (16#6).toNat ≤ 16 ∧ (32#6).toNat ≤ 32) ∧ ((0#6).toNat = 0 ∧ 16 < (17#6).toNat ∧ 32 < (33#6).toNat) ∧
      (peek (poke base.ports 2 { PortRecord.reset with state := .waiting }) 2).state = .waiting ∧
      (peek base.ports 0).state = .active ∧ (peek base.ports 3).state = .disabled := by decide +kernel

theorem witness_CreditReturnStaysWithinTheGrant :
    let r := peek base.ports 0
    r.state = .active ∧ (1 ≤ (12#6).toNat ∧ r.postedCredit + (12#6).toNat ≤ r.postedGrant) ∧
      r.postedGrant < r.postedCredit + (13#6).toNat ∧ r.nonPostedCredit + (28#6).toNat ≤ r.nonPostedGrant ∧
      r.nonPostedGrant < r.nonPostedCredit + (29#6).toNat ∧ (0#6).toNat = 0 := by decide +kernel

theorem witness_ReceiptRetiresTheOldestSentEntry :
    (peek base.ports 0).state = .active ∧
      (peek (withQueue [entry 1 (some 8)] 9 base).pwqs 0).entries = [] ++ entry 1 (some 8) :: [] ∧ (entry 1 (some 8)).sent = some 8 ∧
      ([entry 1 (some 8)].find? (fun x => x.sent.isSome) = some (entry 1 (some 8)) ∧ (entry 1 (some 8)).sent ≠ some 9) ∧
      (peek base.pwqs 0).entries = [] ∧ (peek base.ports 2).state ≠ .active := by decide +kernel

theorem witness_MessagesOfAnInactivePortAreDiscarded :
    (peek base.ports 2).state ≠ .active ∧ (peek base.ports 2).state = .disabled := by decide +kernel

theorem witness_InterruptMessageRaisesItsVector :
    (peek base.ports 0).state = .active ∧ (1 : VectorId) ≠ 0 ∧ (63 : VectorId) ≠ 0 ∧ 64 ≤ (64#7).toNat ∧
      (peek base.ports 2).state ≠ .active := by decide +kernel

theorem witness_PortFailureEndsThePortsWork :
    (peek base.ports 0).state = .active ∧ base.records.length < 32 ∧
      ((1 : Port) ≠ 0 ∧ peek base.locks 1 = .opened ∧ peek (lostClaim false).locks 0 = .claimed 1 5 3 ∧
        (slotUse (lostClaim false) 3).map (fun u => (u.exited, portInService u.port base)) = some (false, true)) ∧
      (peek (poke base.ports 2 { PortRecord.reset with state := .waiting }) 2).state = .waiting := by decide +kernel

/-- A read whose first half has arrived. -/
def halfRead : SlotUse := { sentRead with state := .assembling, received := [some 1, some 2, none, none] }

theorem witness_GoodPiecesAssembleARead :
    (peek base.ports 0).state = .active ∧ tagSlot 49 = 12 ∧ slotUse (withSlot 12 halfRead base) 12 = some halfRead ∧
      (peek (withSlot 12 halfRead base).slots 12).epoch = tagEpoch 49 ∧
      badReadPiece halfRead 2 2 [3, 4] = false ∧ badReadPiece halfRead 2 3 [3, 4, 5] = true ∧
      badReadPiece halfRead 1 2 [2, 3] = true ∧ badReadPiece halfRead 2 0 [] = true ∧
      none ∉ putBytes halfRead.received 2 [3, 4] ∧ none ∈ putBytes halfRead.received 2 [3] ∧ halfRead.fillLink = none ∧
      { halfRead with fillLink := some (.leader 7) }.fillLink = some (.leader 7) ∧
      peek (putBuffer 7 (.filling blockKey 12 [3, 4]) base).buffers 7 = .filling blockKey 12 [3, 4] ∧
      peek (putBuffer 0 (.stale blockKey 12 []) base).buffers 0 = .stale blockKey 12 [] := by decide +kernel

/-- A SENT non-posted write. -/
def sentWrite : SlotUse := { sentRead with kind := .nonPostedWrite, received := [], writeData := [1, 2, 3, 4] }

theorem witness_WriteFaultAndLatePieces :
    (peek base.ports 0).state = .active ∧ slotUse (withSlot 12 sentWrite base) 12 = some sentWrite ∧
      (peek (withSlot 12 sentWrite base).slots (tagSlot 49)).epoch = tagEpoch 49 ∧ sentWrite.state = .sent ∧
      (0#9).toNat = 0 ∧ (1#9).toNat ≠ 0 ∧
      slotUse (withSlot 12 { sentWrite with state := .orphaned } base) 12 = some { sentWrite with state := .orphaned } ∧
      (∀ b, sentWrite.fillLink ≠ some (.leader b)) ∧
      ({ halfRead with fillLink := some (.leader 7) }.fillLink = some (.leader 7) ∧
        peek (putBuffer 7 (.filling blockKey 12 [3]) base).buffers 7 = .filling blockKey 12 [3]) ∧
      peek { base with locks := poke base.locks 0 (.claimed 6 4 12) }.locks 0 = .claimed 6 4 12 ∧
      peek base.locks 0 = .opened := by decide +kernel

theorem witness_StalePiecesMakeARecord :
    (peek base.ports 0).state = .active ∧ slotUse base (tagSlot 49) = none ∧
      slotUse (withSlot 12 { sentRead with state := .ready } base) (tagSlot 49) = some { sentRead with state := .ready } ∧
      slotUse (withSlot 12 sentRead base) (tagSlot 50) = some sentRead ∧
      (peek (withSlot 12 sentRead base).slots (tagSlot 50)).epoch ≠ tagEpoch 50 ∧ sentRead.port ≠ 1 := by decide +kernel

/-- A drain whose generation has one slot left ends with its answer; one with two, or of another generation, does not. -/
theorem witness_AnsweredSlotIsFree :
    slotUse (withSlot 12 sentRead base) 12 = some sentRead ∧ (withSlot 12 sentRead base).drain = none ∧
      ((draining (withSlot 12 sentRead base)).drain = some { generation := 0, agent := 0, tag := 3, suppressed := false } ∧
        peek (draining (withSlot 12 sentRead base)).counts (genIndex 0) = 1) ∧
      peek (withSlot 3 sentRead (withSlot 12 sentRead base)).counts (genIndex 0) = 2 ∧ (0 : Generation) ≠ 255 := by
  decide +kernel

/-- A slot in FENCE_WAIT that an exit of its port left there. -/
def left : SlotUse := { sentRead with state := .fenceWait, exited := true }

/-- A follower of the fill of buffer 7. -/
def follower : SlotUse := { bufferedRead with state := .fillWait, fillLink := some (.follower 7) }

theorem witness_CompletionTimerAnswersExpired :
    slotUse base 12 = none ∧ slotUse (withSlot 12 sentRead base) 12 = some sentRead ∧ sentRead.state = .sent ∧
      0 ≤ ((100 : Time) - sentRead.expiry).toInt ∧ ((99 : Time) - sentRead.expiry).toInt < 0 ∧
      0 ≤ ((100 + 0x7FFFFFFF : Time) - sentRead.expiry).toInt ∧
      (slotUse (withSlot 12 left base) 12 = some left ∧ left.state = .fenceWait ∧ left.exited = true) ∧
      (lockedRead.state = .lockWait ∧ { sentRead with state := .ready }.state = SlotState.ready) ∧
      (follower.state = .fillWait ∧ follower.fillLink = some (.follower 7) ∧
        peek (putBuffer 7 (.filling blockKey 3 [12]) base).buffers 7 = .filling blockKey 3 [12] ∧
        peek (putBuffer 7 (.stale blockKey 3 [12]) base).buffers 7 = .stale blockKey 3 [12]) := by decide +kernel

theorem witness_OrphanAndHoldTimersExpire :
    slotUse (withSlot 12 { sentRead with state := .orphaned } base) 12 = some { sentRead with state := .orphaned } ∧
      0 ≤ ((100 : Time) - sentRead.expiry).toInt ∧ peek locked.locks 0 = .held 6 4 0 ∧ 0 ≤ (locked.bridgeTime - 0).toInt ∧
      (locked.bridgeTime - 1).toInt < 0 := by decide +kernel

theorem witness_TimeAdvancesAndEgressIsInOrder :
    base.egress = [] ∧ { base with egress := [.interrupt 1 2] }.egress = .interrupt 1 2 :: [] ∧
      ((∀ c, EgressPacket.interrupt 1 2 ≠ .creditReturn c)) ∧
      { base with egress := [.creditReturn .posted] }.egress = .creditReturn .posted :: [] :=
  ⟨by decide +kernel, by decide +kernel, fun c => by cases c <;> decide, by decide +kernel⟩

theorem witness_RaiseFollowsTheEntryState :
    (peek base.vectors 0).state = .idle ∧ (peek (setVectorState 0 .pending base).vectors 0).state = .pending ∧
      (peek serving.vectors 5).state = .inService 3 := by decide +kernel

theorem witness_SteerDeliversAnOwedInterrupt :
    let s := setVectorState 0 .pending base
    (peek s.vectors 0).state = .pending ∧ (peek s.vectors 0).enabled = true ∧
      chooseAgent (peek s.vectors 0) s.agentMasks s.serviceCounts = some 0 ∧
      (∀ a, eligibleAgent (peek s.vectors 0) 255 a = false) ∧ (peek s.vectors 1).enabled = false := by decide +kernel

theorem witness_ChoiceFollowsTheMode :
    (VectorEntry.reset true).mode = .fixed ∧ (served false).mode = .rotate ∧
      { served false with mode := .leastBusy }.mode = SteerMode.leastBusy ∧
      chooseAgent (served false) 0 serving.serviceCounts = some 4 ∧
      chooseAgent { served false with mode := .leastBusy } 7 serving.serviceCounts = some 4 ∧
      chooseAgent (served false) 255 serving.serviceCounts = none := by decide +kernel

theorem witness_FittingServiceDoneEndsTheService :
    (5 : VectorId) ≠ 0 ∧ (peek serving.vectors 5).state = .inService 3 := by decide +kernel

theorem witness_VectorZeroServiceGoesByTheQueue :
    (peek (poke base.vectors 0 (served true)) 0).state = .inService 3 ∧ base.records = [] ∧ (recorded 1 base).records ≠ [] := by
  decide +kernel

theorem witness_MisfitServiceDoneMakesARecord :
    (peek base.vectors 0).state = .idle ∧ (peek (setVectorState 0 .pending base).vectors 0).state = .pending ∧
      (peek serving.vectors 5).state = .inService 3 ∧ (3 : Agent) ≠ 4 := by decide +kernel

/-- Each of the five writes has its own register number; agent 0 is in the mask. -/
theorem witness_RegisterWritesTakeTheirValues :
    let s := executing (order 1 5 [0]) base
    s.current = some (order 1 5 [0]) ∧ (order 1 5 [0]).operation = 1 ∧ (order 1 5 [0]).words = [0] ∧
      hasAgent s.managementMask 0 = true ∧ (0xF00#32).extractLsb' 0 8 = 0 ∧ (0x1000#32).extractLsb' 0 12 = 0 := by
  decide +kernel

theorem witness_InvalidRequestsChangeNothing :
    (executing (order 9 0 []) base).current = some (order 9 0 []) ∧ 9 ≤ (order 9 0 []).operation.toNat ∧
      hasAgent (executing (order 9 0 []) base).managementMask 0 = true ∧ 6 ≤ (order 1 6 [0]).index.toNat ∧
      (order 1 5 []).words.length ≠ 1 ∧ (order 1 1 [0, 0]).words.length ≠ 1 ∧ 14 ≤ (order 0 14 []).index.toNat ∧ (order 0 13 [0]).words ≠ [] ∧ 4 ≤ (order 5 4 [1]).index.toNat ∧
      ((order 5 0 [0]).words ≠ [1] ∧ (order 5 0 [4]).words ≠ [3] ∧ (order 5 0 []).words ≠ [2]) := by decide +kernel

theorem witness_RequestsOutsideTheMaskAreRefused :
    let s := { executing (order 1 1 [0]) base with managementMask := 0xFE }
    s.current = some (order 1 1 [0]) ∧ hasAgent s.managementMask 0 = false ∧
      ((order 5 0 [0]).words ≠ [1] ∧ (order 5 0 [4]).words ≠ [3] ∧ (order 5 0 []).words ≠ [2]) := by decide +kernel

theorem witness_RegisterReadsReportTheState :
    let s := executing (order 0 13 []) base
    s.current = some (order 0 13 []) ∧ (order 0 13 []).operation = 0 ∧ (order 0 13 []).words = [] ∧
      (order 0 13 []).index = 13 := by decide +kernel

theorem witness_WindowsAreStagedAndReadBack :
    let s := executing (order 2 31 [0xC0000001, 0x30000002, 0, 1]) base
    s.current = some (order 2 31 [0xC0000001, 0x30000002, 0, 1]) ∧ hasAgent s.managementMask 0 = true ∧ s.drain = none ∧
      (31#6 = BitVec.ofNat 6 (31 : WindowId).val ∧ 32 ≤ (32#6).toNat) ∧
      windowOfWords 0xD0000001 0 0 0 = none ∧ (windowOfWords 0xC0000001 0x30000002 0 1).isSome = true ∧
      ((1 : Page) ≤ 1 ∧ (1 : Page) < 2) ∧ s.activeBank = .a ∧ bankOfCode 0 = some .a ∧ bankOfCode 1 = some .b ∧
      bankOfCode 2 = none := by decide +kernel

theorem witness_WindowAndVectorWordsRoundTrip :
    5 ≤ ((0xD0000001#32).extractLsb' 28 3).toNat ∧ (0xC0000001#32).extractLsb' 28 3 = (4 : BitVec 3) ∧
      (0xB0000001#32).extractLsb' 28 3 = BitVec.ofNat 3 (3 : Port).val := by decide +kernel

theorem witness_CommitSwapsTheBanksAndDrains :
    let s := executing (order 4 0 []) (withSlot 12 sentRead base)
    s.current = some (order 4 0 []) ∧ (order 4 0 []).operation = 4 ∧ (order 4 0 []).words = [] ∧
      hasAgent s.managementMask 0 = true ∧ s.drain = none ∧ s.postedIntake = [] ∧ countOf s.generation s ≠ 0 ∧
      peek s.counts (genIndex 255) = 0 ∧ (draining s).drain ≠ none ∧ peek (draining s).counts (genIndex 0) ≠ 0 := by
  decide +kernel

theorem witness_PortControlMovesThePort :
    let s := executing (order 5 3 [1]) base
    s.current = some (order 5 3 [1]) ∧ (order 5 3 [1]).index = BitVec.ofNat 6 (3 : Port).val ∧
      hasAgent s.managementMask 0 = true ∧ (peek s.ports 3).state = .disabled ∧ (peek s.ports 0).state ≠ .disabled := by
  decide +kernel

theorem witness_VectorsAreWrittenAndRead :
    let s := executing (order 6 63 [0x1D]) base
    s.current = some (order 6 63 [0x1D]) ∧ (order 6 63 [0x1D]).index = BitVec.ofNat 6 (63 : VectorId).val ∧
      hasAgent s.managementMask 0 = true ∧ (0x6#32).extractLsb' 1 2 = 3 ∧
      modeOfCode ((0x1D#32).extractLsb' 1 2) = some .leastBusy ∧ (peek serving.vectors 5).state ≠ .pending := by decide +kernel

/-! ## A state in which every law holds, one step away from another -/

/-- A read in ASSEMBLING leads the fill of a FILLING buffer, and another buffer is VALID. -/
def leading : SlotUse :=
  { bufferedRead with state := .assembling, fillLink := some (.leader 0), received := List.replicate 256 none }

/-- Work in every block, and a receipt to come. -/
def busy : State :=
  { withSlot 12 leading (withQueue [entry 1 (some 0xFFFF), entry 2 (some 0), entry 3 none] 1 serving) with
    buffers := poke (poke base.buffers 0 (.filling blockKey 12 [])) 7 (.valid { port := 1, block := 0x200100 } [])
    lru := [7]
    locks := poke base.locks 0 (.held 6 2 500)
    pending := [.receipt 0 0xFFFF] }

theorem busy_slots (i : SlotId) : i = 12 ∨ slotUse busy i = none := by
  revert i; decide +kernel

theorem busy_keys (b : BufferId) (k : BufferKey) (h : liveKey (peek busy.buffers b) = some k) :
    (b = 0 ∧ k = blockKey) ∨ (b = 7 ∧ k = { port := 1, block := 0x200100 }) := by
  have hb : ∀ b, b = 0 ∨ b = 7 ∨ liveKey (peek busy.buffers b) = none := by decide +kernel
  have h0 : liveKey (peek busy.buffers 0) = some blockKey := by decide +kernel
  have h7 : liveKey (peek busy.buffers 7) = some { port := 1, block := 0x200100 } := by decide +kernel
  rcases hb b with rfl | rfl | hn
  · exact Or.inl ⟨rfl, Option.some.inj (h.symm.trans h0)⟩
  · exact Or.inr ⟨rfl, Option.some.inj (h.symm.trans h7)⟩
  · rw [hn] at h
    cases h

theorem busy_steps : ∃ t, step busy = .next t := ⟨_, rfl⟩

theorem witness_CapacitiesSettingsAndCreditsKept : WithinCapacities busy ∧ SettingsInRange busy ∧ CreditsWithinGrants busy := by
  unfold WithinCapacities SettingsInRange CreditsWithinGrants CreditsFit
  decide +kernel

theorem witness_LocksInServiceKept : LocksInService busy := by
  unfold LocksInService
  decide +kernel

theorem witness_QueuesInOrderKept : QueuesInOrder busy := by
  intro p
  refine ⟨?_, by revert p; decide +kernel⟩
  by_cases h : p = 0
  · subst h
    refine ⟨[entry 1 (some 0xFFFF), entry 2 (some 0)], [entry 3 none], by decide +kernel, by decide +kernel, ?_⟩
    intro k hk
    have hk : k = 0 ∨ k = 1 := by simp at hk; omega
    rcases hk with rfl | rfl <;> decide +kernel +revert
  · refine ⟨[], [], ?_, by simp, by simp⟩
    revert p
    decide +kernel

theorem witness_CountsExactKept : CountsExact busy := by
  unfold CountsExact
  decide +kernel

theorem witness_BuffersStayFresh : KeysUnique busy ∧ BuffersFresh busy := by
  refine ⟨?_, ?_⟩
  · intro b c k hb hc
    rcases busy_keys b k hb with ⟨rfl, rfl⟩ | ⟨rfl, rfl⟩ <;> rcases busy_keys c _ hc with ⟨rfl, h⟩ | ⟨rfl, h⟩
    · rfl
    · exact absurd h (by decide)
    · exact absurd h (by decide)
    · rfl
  · intro b k hb
    rcases busy_keys b k hb with ⟨rfl, rfl⟩ | ⟨rfl, rfl⟩ <;> decide +kernel

theorem witness_LruExactKept : LruExact busy := by
  refine ⟨by decide +kernel, by decide +kernel, ?_⟩
  intro i u b hu hb
  rcases busy_slots i with rfl | hn
  · have h12 : slotUse busy 12 = some leading := by decide +kernel
    have hl := Option.some.inj (hu.symm.trans h12)
    subst hl
    have h0 := FillLink.leader.inj (Option.some.inj hb)
    subst h0
    decide +kernel
  · rw [hn] at hu
    cases hu

theorem witness_ServiceCountsExactKept : ServiceCountsExact busy := by
  unfold ServiceCountsExact
  decide +kernel

theorem witness_PendingBlockedKept : PendingBlocked busy := by
  unfold PendingBlocked
  decide +kernel

end Sys2Proof.Tests
end

section
/-! PROOFS. R12: every step keeps every generation's outstanding count exact. The count, the queue entries and the slots are
compared once for each shared operation; a command is then a chain of them. -/

namespace Sys2Proof.Machine

/-! ## Sums over a table -/

/-- The sum of a number over the elements of a table. -/
def tally {α : Type} {n : Nat} (f : α → Nat) (v : Vector α n) : Nat := ∑ i : Fin n, f (peek v i)

theorem tally_poke {α : Type} {n : Nat} (f : α → Nat) (v : Vector α n) (i : Fin n) (a : α) :
    tally f (poke v i a) + f (peek v i) = tally f v + f a := by
  have hrest : ∑ j ∈ Finset.univ.erase i, f (peek (poke v i a) j) = ∑ j ∈ Finset.univ.erase i, f (peek v j) :=
    Finset.sum_congr rfl (fun j hj => by rw [peek_poke_ne v a (Finset.ne_of_mem_erase hj).symm])
  have hnew := Finset.sum_erase_add Finset.univ (fun j => f (peek (poke v i a) j)) (Finset.mem_univ i)
  have hold := Finset.sum_erase_add Finset.univ (fun j => f (peek v j)) (Finset.mem_univ i)
  simp only [peek_poke_same] at hnew
  unfold tally
  omega

theorem tally_congr {α : Type} {n : Nat} {f : α → Nat} {v w : Vector α n} (h : ∀ i, f (peek v i) = f (peek w i)) :
    tally f v = tally f w := Finset.sum_congr rfl (fun i _ => h i)

theorem countP_eq_sum_map {α : Type} (p : α → Bool) (l : List α) : l.countP p = (l.map (fun a => (p a).toNat)).sum := by
  induction l with
  | nil => rfl
  | cons a l ih => cases h : p a <;> simp [h, ih, Nat.add_comm]

/-! ## What a queue and a slot hold of a generation -/

/-- The entries of a queue that are of a generation. -/
def queueShare (g : Generation) (q : PostedQueue) : Nat := q.entries.countP (fun e => decide (e.generation = g))

/-- The generation of the request a slot holds. -/
def generationOf (x : Slot) : Option Generation := x.use.map SlotUse.generation

/-- 1 for a slot that holds a request of a generation, 0 for any other. -/
def slotShare (g : Generation) (x : Slot) : Nat := (decide (generationOf x = some g)).toNat

theorem queuedOf_eq_tally (g : Generation) (s : State) : queuedOf g s = tally (queueShare g) s.pwqs :=
  (Fin.sum_univ_def _).symm

theorem slotsOf_eq_tally (g : Generation) (s : State) : slotsOf g s = tally (slotShare g) s.slots := by
  have hshare : ∀ i, (slotOfGeneration g s i).toNat = slotShare g (peek s.slots i) := by
    intro i
    unfold slotOfGeneration slotShare generationOf slotUse
    cases (peek s.slots i).use <;> simp
  unfold slotsOf tally
  rw [countP_eq_sum_map, Fin.sum_univ_def]
  simp only [hshare]
  rfl

/-! ## Counts that owe a list of generations -/

/-- R12 in the middle of an event: every count is the number of its generation's queue entries and slots, and of the items of the
list, which are counted and stand in no queue and in no slot. -/
def CountsOwe (owed : List Generation) (s : State) : Prop :=
  ∀ g, countOf g s = tally (queueShare g) s.pwqs + tally (slotShare g) s.slots + owed.count g

theorem countsExact_iff (s : State) : CountsExact s ↔ CountsOwe [] s := by
  simp [CountsExact, CountsOwe, queuedOf_eq_tally, slotsOf_eq_tally]

theorem CountsOwe.of_shares {owed : List Generation} {s t : State} (h : CountsOwe owed s) (hc : t.counts = s.counts)
    (hq : ∀ g p, queueShare g (peek t.pwqs p) = queueShare g (peek s.pwqs p))
    (hs : ∀ i, generationOf (peek t.slots i) = generationOf (peek s.slots i)) : CountsOwe owed t := by
  intro g
  have hslots : tally (slotShare g) t.slots = tally (slotShare g) s.slots :=
    tally_congr (fun i => by rw [slotShare, slotShare, hs i])
  have hcount : countOf g t = countOf g s := by rw [countOf, countOf, hc]
  rw [hcount, hslots, tally_congr (hq g)]
  exact h g

theorem countOf_poke (g g' : Generation) (n : Nat) (s t : State) (h : t.counts = poke s.counts (genIndex g) n) :
    countOf g' t = if g = g' then n else countOf g' s := by
  simp only [countOf, h, peek_poke, genIndex_inj]

theorem CountsOwe.countUp {owed : List Generation} {s : State} (g : Generation) (h : CountsOwe owed s) :
    CountsOwe (g :: owed) (countUp g s) := by
  intro g'
  rw [countOf_poke g g' _ s _ (countUp_counts g s), List.count_cons]
  have hg := h g
  have hg' := h g'
  by_cases e : g = g'
  · subst e
    simp only [if_true, beq_self_eq_true, countUp_pwqs, countUp_slots]
    omega
  · simpa [e] using hg'

theorem countDown_counts (g : Generation) (s : State) :
    (countDown g s).counts = poke s.counts (genIndex g) (countOf g s - 1) := by
  unfold countDown endDrainIfDone endDrain copyActiveBank
  dsimp only
  repeat' split
  all_goals rfl

theorem CountsOwe.countDown {owed : List Generation} {g : Generation} {s : State} (h : CountsOwe (g :: owed) s) :
    CountsOwe owed (countDown g s) := by
  intro g'
  rw [countOf_poke g g' _ s _ (countDown_counts g s), countDown_slots, (countDown_frame g s).pwqs]
  have hg' := h g'
  by_cases e : g = g'
  · subst e
    simp only [List.count_cons_self] at hg'
    simp only [if_true]
    omega
  · simpa [e] using hg'

/-- A slot that loses its request leaves its generation's count with one item too many. -/
theorem CountsOwe.slotFreed {owed : List Generation} {s : State} {i : SlotId} {u : SlotUse} (h : CountsOwe owed s)
    (hu : slotUse s i = some u) : CountsOwe (u.generation :: owed) (putUse i none s) := by
  intro g
  have hg := h g
  have ht := tally_poke (slotShare g) s.slots i { epoch := (peek s.slots i).epoch, use := none }
  have hold : slotShare g (peek s.slots i) = (decide (u.generation = g)).toNat := by
    have hu' : (peek s.slots i).use = some u := hu
    simp [slotShare, generationOf, hu']
  have hnew : slotShare g { epoch := (peek s.slots i).epoch, use := none } = 0 := rfl
  rw [List.count_cons]
  simp only [putUse_pwqs, putUse_slots]
  have hcount : countOf g (putUse i none s) = countOf g s := rfl
  rw [hcount]
  by_cases e : u.generation = g <;> simp [e] at hold ⊢ <;> omega

/-- A FREE slot that takes a request settles one item owed. -/
theorem CountsOwe.slotFilled {owed : List Generation} {s t : State} {i : SlotId} {x : Slot} {u : SlotUse}
    (h : CountsOwe (u.generation :: owed) s) (hi : slotUse s i = none) (hx : x.use = some u)
    (ht : t = { s with slots := poke s.slots i x }) : CountsOwe owed t := by
  subst ht
  intro g
  have hg := h g
  have ht := tally_poke (slotShare g) s.slots i x
  have hold : slotShare g (peek s.slots i) = 0 := by
    have hi' : (peek s.slots i).use = none := hi
    simp [slotShare, generationOf, hi']
  have hnew : slotShare g x = (decide (u.generation = g)).toNat := by simp [slotShare, generationOf, hx]
  rw [List.count_cons] at hg
  have hcount : countOf g { s with slots := poke s.slots i x } = countOf g s := rfl
  rw [hcount]
  dsimp only
  by_cases e : u.generation = g <;> simp [e] at hnew hg <;> omega

/-- A queue whose entries change: what it gains is settled, and what it loses is owed. -/
theorem CountsOwe.queueChanged {owed owed' : List Generation} {s : State} {p : Port} {q : PostedQueue}
    (h : CountsOwe owed s)
    (hq : ∀ g, queueShare g q + owed'.count g = queueShare g (peek s.pwqs p) + owed.count g) :
    CountsOwe owed' { s with pwqs := poke s.pwqs p q } := by
  intro g
  have hg := h g
  have ht := tally_poke (queueShare g) s.pwqs p q
  have hcount : countOf g { s with pwqs := poke s.pwqs p q } = countOf g s := rfl
  have := hq g
  rw [hcount]
  dsimp only
  omega

end Sys2Proof.Machine
end

section
/-! PROOFS. R12, kept by every shared operation of the blocks. -/

namespace Sys2Proof.Machine

/-- If the counts are exact in one state, they are in the other. -/
def KeepsExact (s t : State) : Prop := CountsExact s → CountsExact t

namespace KeepsExact

theorem refl (s : State) : KeepsExact s s := id

theorem trans {a b c : State} (h : KeepsExact a b) (k : KeepsExact b c) : KeepsExact a c := k ∘ h

theorem fold {α : Type} (f : State → α → State) (h : ∀ s x, KeepsExact s (f s x)) (l : List α) (s : State) :
    KeepsExact s (l.foldl f s) := fold_keeps KeepsExact.refl KeepsExact.trans f h l s

theorem of_shares {s t : State} (hc : t.counts = s.counts)
    (hq : ∀ g p, queueShare g (peek t.pwqs p) = queueShare g (peek s.pwqs p))
    (hs : ∀ i, generationOf (peek t.slots i) = generationOf (peek s.slots i)) : KeepsExact s t := fun h =>
  (countsExact_iff t).2 (((countsExact_iff s).1 h).of_shares hc hq hs)

theorem of_same {s t : State} (hc : t.counts = s.counts) (hq : t.pwqs = s.pwqs) (hs : t.slots = s.slots) : KeepsExact s t :=
  of_shares hc (fun _ _ => by rw [hq]) (fun _ => by rw [hs])

/-- An operation that keeps the counts exact, run on a state with the same counts, queues and slots. -/
theorem from_same {s t u : State} (k : KeepsExact t u) (hc : t.counts = s.counts) (hq : t.pwqs = s.pwqs)
    (hs : t.slots = s.slots) : KeepsExact s u := (of_same hc hq hs).trans k

end KeepsExact

theorem ServiceFrame.keepsExact {s t : State} (h : ServiceFrame s t) : KeepsExact s t :=
  .of_same h.counts h.pwqs h.slots

theorem raiseOnFirstRecord_keepsExact (s t : State) : KeepsExact t (raiseOnFirstRecord s t) :=
  (raiseOnFirstRecord_frame s t).keepsExact

theorem storeRecord_keepsExact (b : RecordBody) (s : State) : KeepsExact s (storeRecord b s) :=
  .of_same (storeRecord_counts b s) (storeRecord_pwqs b s) (storeRecord_slots b s)

/-! ## Slots -/

theorem putUse_keepsExact {i : SlotId} {u v : SlotUse} {s : State} (hu : slotUse s i = some u)
    (hg : v.generation = u.generation) : KeepsExact s (putUse i (some v) s) := by
  refine .of_shares rfl (fun _ _ => rfl) (fun j => ?_)
  have hu' : (peek s.slots i).use = some u := hu
  rw [putUse_slots, peek_poke]
  split
  · next h => subst h; simp [generationOf, hu', hg]
  · rfl

theorem reply_keepsExact (u : SlotUse) (st : Status) (data : List Byte) (s : State) : KeepsExact s (reply u st data s) := by
  unfold reply
  split
  · exact .refl s
  · exact .of_same rfl rfl rfl

theorem freeSlot_keepsExact (i : SlotId) (s : State) : KeepsExact s (freeSlot i s) := by
  unfold freeSlot
  split
  · exact .refl s
  · next u hu => exact fun h => (countsExact_iff _).2 (((countsExact_iff s).1 h).slotFreed hu).countDown

theorem answerSlot_keepsExact (i : SlotId) (st : Status) (data : List Byte) (s : State) :
    KeepsExact s (answerSlot i st data s) := by
  unfold answerSlot
  split
  · exact .refl s
  · exact (reply_keepsExact _ st data s).trans (freeSlot_keepsExact i _)

/-! ## Fills -/

theorem putBuffer_keepsExact (b : BufferId) (x : Buffer) (s : State) : KeepsExact s (putBuffer b x s) := .of_same rfl rfl rfl

theorem answerFollowersDone_keepsExact (block : List Byte) (l : List SlotId) (s : State) :
    KeepsExact s (answerFollowersDone block l s) := by
  refine .fold _ (fun s i => ?_) l s
  split
  · exact answerSlot_keepsExact i _ _ s
  · exact .refl s

theorem answerFollowersFailed_keepsExact (st : Status) (l : List SlotId) (s : State) :
    KeepsExact s (answerFollowersFailed st l s) := by
  refine .fold _ (fun s i => ?_) l s
  split
  · exact answerSlot_keepsExact i _ _ s
  · exact .refl s

theorem endFillDone_keepsExact (b : BufferId) (block : List Byte) (s : State) : KeepsExact s (endFillDone b block s) := by
  unfold endFillDone
  split
  · exact (answerFollowersDone_keepsExact block _ s).trans (.of_same rfl rfl rfl)
  · exact (answerFollowersDone_keepsExact block _ s).trans (putBuffer_keepsExact b _ _)
  · exact .refl s
  · exact .refl s

theorem endLedFill_keepsExact (u : SlotUse) (st : Status) (s : State) : KeepsExact s (endLedFill u st s) := by
  unfold endLedFill
  split
  · unfold endFillFailed
    split
    · exact (putBuffer_keepsExact _ _ s).trans (answerFollowersFailed_keepsExact st _ _)
    · exact (putBuffer_keepsExact _ _ s).trans (answerFollowersFailed_keepsExact st _ _)
    · exact .refl s
    · exact .refl s
  · exact .refl s
  · exact .refl s

theorem failSlot_keepsExact (i : SlotId) (st : Status) (s : State) : KeepsExact s (failSlot i st s) := by
  unfold failSlot
  split
  · exact .refl s
  · exact (answerSlot_keepsExact i st _ s).trans (endLedFill_keepsExact _ st _)

/-! ## The ready point and the fences -/

theorem enterReady_keepsExact (i : SlotId) (s : State) : KeepsExact s (enterReady i s) := by
  unfold enterReady
  split
  · exact .refl s
  · next u hu => exact (putUse_keepsExact (v := { u with state := .ready }) hu rfl).trans (.of_same rfl rfl rfl)

theorem followFill_keepsExact {b : BufferId} {i : SlotId} {u : SlotUse} {s : State} (hu : slotUse s i = some u) :
    KeepsExact s (followFill b i u s) := by
  refine (putUse_keepsExact (v := { u with state := .fillWait, fillLink := some (.follower b) }) hu rfl).trans ?_
  unfold followFill
  dsimp only
  split
  · exact putBuffer_keepsExact b _ _
  · exact .refl _
  · exact .refl _
  · exact .refl _

theorem leadFill_keepsExact {b : BufferId} {i : SlotId} {u : SlotUse} {s : State} (hu : slotUse s i = some u) :
    KeepsExact s (leadFill b i u s) := by
  refine (putUse_keepsExact (v := { u with fillLink := some (.leader b), received := List.replicate 256 none }) hu rfl).trans ?_
  unfold leadFill
  exact (enterReady_keepsExact i _).from_same rfl rfl rfl

theorem readFromBuffers_keepsExact {i : SlotId} {u : SlotUse} {s : State} (hu : slotUse s i = some u) :
    KeepsExact s (readFromBuffers i u s) := by
  unfold readFromBuffers
  split
  · exact (answerSlot_keepsExact i _ _ _).from_same rfl rfl rfl
  · split
    · exact followFill_keepsExact hu
    · split
      · exact enterReady_keepsExact i s
      · split
        · exact leadFill_keepsExact hu
        · exact enterReady_keepsExact i s

theorem readyPoint_keepsExact (i : SlotId) (s : State) : KeepsExact s (readyPoint i s) := by
  unfold readyPoint
  split
  · exact .refl s
  · next u hu =>
    split
    · exact failSlot_keepsExact i _ s
    · split
      · exact enterReady_keepsExact i s
      · split
        · exact readFromBuffers_keepsExact hu
        · exact enterReady_keepsExact i s

theorem enterFenceWait_keepsExact {i : SlotId} {u : SlotUse} {s : State} (hu : slotUse s i = some u) :
    KeepsExact s (enterFenceWait i u s) :=
  (putUse_keepsExact (v := { u with state := .fenceWait }) hu rfl).trans (.of_same rfl rfl rfl)

theorem meetFence_keepsExact (i : SlotId) (s : State) : KeepsExact s (meetFence i s) := by
  unfold meetFence
  split
  · exact .refl s
  · next u hu =>
    split
    · exact enterFenceWait_keepsExact hu
    · exact readyPoint_keepsExact i s

/-! ## Locks and waiting orders -/

theorem leaveLists_keepsExact (i : SlotId) (u : SlotUse) (s : State) : KeepsExact s (leaveLists i u s) := by
  refine .of_same ?_ (leaveLists_frame i u s).pwqs (leaveLists_slots i u s)
  unfold leaveLists
  repeat' split
  all_goals rfl

theorem enterLockWait_keepsExact (i : SlotId) (s : State) : KeepsExact s (enterLockWait i s) := by
  unfold enterLockWait
  split
  · exact .refl s
  · next u hu => exact (putUse_keepsExact (v := { u with state := .lockWait }) hu rfl).trans (.of_same rfl rfl rfl)

theorem moveToLockWait_keepsExact (i : SlotId) (s : State) : KeepsExact s (moveToLockWait i s) := by
  unfold moveToLockWait
  split
  · exact .refl s
  · exact (leaveLists_keepsExact i _ s).trans (enterLockWait_keepsExact i _)

theorem claimLock_keepsExact (p : Port) (i : SlotId) (u : SlotUse) (s : State) : KeepsExact s (claimLock p i u s) := by
  unfold claimLock
  exact (KeepsExact.fold _ (fun s j => moveToLockWait_keepsExact j s) _ _).from_same rfl rfl rfl

theorem releaseFromWaiting_keepsExact (p : Port) (i : SlotId) (s : State) : KeepsExact s (releaseFromWaiting p i s) :=
  (meetFence_keepsExact i _).from_same rfl rfl rfl

theorem claimFromWaiting_keepsExact (p : Port) (i : SlotId) (u : SlotUse) (s : State) :
    KeepsExact s (claimFromWaiting p i u s) :=
  ((claimLock_keepsExact p i u _).trans (meetFence_keepsExact i _)).from_same rfl rfl rfl

theorem processOrder_keepsExact {reopen : State → State} (h : ∀ s, KeepsExact s (reopen s)) (p : Port) (l : List SlotId) :
    ∀ s, KeepsExact s (processOrder reopen p l s) := by
  induction l with
  | nil => exact fun s => .refl s
  | cons i rest ih =>
    intro s
    unfold processOrder
    split
    · exact ih s
    · split
      · dsimp only
        split
        · exact (claimFromWaiting_keepsExact p i _ s).trans (h _)
        · exact (claimFromWaiting_keepsExact p i _ s).trans (.fold _ (fun s j => releaseFromWaiting_keepsExact p j s) _ _)
      · exact (releaseFromWaiting_keepsExact p i s).trans (ih _)

theorem openLockWithin_keepsExact (n : Nat) (p : Port) : ∀ s, KeepsExact s (openLockWithin n p s) := by
  induction n with
  | zero => exact fun s => .of_same rfl rfl rfl
  | succ n ih => exact fun s => (processOrder_keepsExact ih p _ _).from_same rfl rfl rfl

theorem openLock_keepsExact (p : Port) (s : State) : KeepsExact s (openLock p s) := openLockWithin_keepsExact 64 p s

theorem lockActs_keepsExact (i : SlotId) (p : Port) (st : Status) (s : State) : KeepsExact s (lockActs i p st s) := by
  unfold lockActs
  split
  · split
    · split
      · exact .of_same rfl rfl rfl
      · exact openLock_keepsExact p s
    · exact .refl s
  · exact .refl s
  · exact .refl s

theorem breakLock_keepsExact (p : Port) (c : BreakCause) (s : State) : KeepsExact s (breakLock p c s) := by
  unfold breakLock
  split
  · exact .refl s
  · exact (storeRecord_keepsExact _ _).from_same rfl rfl rfl
  · exact (storeRecord_keepsExact _ _).from_same rfl rfl rfl

theorem takeTurn_keepsExact (i : SlotId) (s : State) : KeepsExact s (takeTurn i s) := by
  unfold takeTurn
  split
  · exact .refl s
  · split
    · split
      · exact (readyPoint_keepsExact i s).trans (lockActs_keepsExact i _ _ _)
      · exact readyPoint_keepsExact i s
    · exact .refl s

theorem testFences_keepsExact (others : List SlotId) (s : State) : KeepsExact s (testFences others s) := by
  unfold testFences
  exact (KeepsExact.fold _ (fun s i => takeTurn_keepsExact i s) _ _).from_same rfl rfl rfl

/-! ## Allocation -/

theorem firstState_keepsExact (i : SlotId) (u : SlotUse) (s : State) : KeepsExact s (firstState i u s) := by
  unfold firstState
  split
  · exact enterLockWait_keepsExact i s
  · split
    · exact (claimLock_keepsExact _ i u s).trans (meetFence_keepsExact i _)
    · exact meetFence_keepsExact i s

theorem signalWrite_keepsExact (k : SlotKind) (r : DecodeRecord) (s : State) : KeepsExact s (signalWrite k r s) := by
  unfold signalWrite
  split <;> exact .of_same rfl rfl rfl

theorem lowestFree_unused {s : State} {i : SlotId} (h : lowestFree s = some i) : slotUse s i = none :=
  Option.isNone_iff_eq_none.1 (List.find?_some (p := fun i => (slotUse s i).isNone) h)

/-- R57: the count that an allocation raises is that of the slot it fills. -/
theorem allocate_keepsExact (e : NonPostedEntry) (k : SlotKind) (data : List Byte) (r : DecodeRecord) (s : State) :
    KeepsExact s (allocate e k data r s) := by
  unfold allocate
  split
  · exact .refl s
  · next i hi =>
    refine KeepsExact.trans ?_ ((signalWrite_keepsExact k r _).trans (firstState_keepsExact i _ _))
    intro h
    exact (countsExact_iff _).2
      ((((countsExact_iff s).1 h).countUp r.generation).slotFilled (u := allocatedUse e k data r s)
        (x := { epoch := (peek s.slots i).epoch + 1, use := some (allocatedUse e k data r s) }) (lowestFree_unused hi) rfl rfl)

/-! ## The posted intake and the queues -/

/-- R9, R42: the count that a queued write raises is that of the entry it becomes. -/
theorem enqueuePosted_keepsExact (e : PostedEntry) (r : DecodeRecord) (s : State) : KeepsExact s (enqueuePosted e r s) := by
  intro h
  have hup := ((countsExact_iff s).1 h).countUp r.generation
  have hq := hup.queueChanged (p := r.port) (owed' := [])
    (q := { peek s.pwqs r.port with entries := (peek s.pwqs r.port).entries ++ [queueEntry e r] }) (fun g => by
      by_cases hg : r.generation = g <;> simp [queueShare, queueEntry, hg])
  exact KeepsExact.of_same (s := { countUp r.generation s with
    pwqs := poke s.pwqs r.port { peek s.pwqs r.port with entries := (peek s.pwqs r.port).entries ++ [queueEntry e r] } })
    rfl rfl rfl ((countsExact_iff _).2 hq)

theorem takePosted_keepsExact (e : PostedEntry) (d : Decoded) (s : State) : KeepsExact s (takePosted e d s) := by
  unfold takePosted
  split
  · split
    · exact storeRecord_keepsExact _ s
    · exact .refl s
  · exact storeRecord_keepsExact _ s
  · exact .refl s
  · exact storeRecord_keepsExact _ s
  · exact enqueuePosted_keepsExact e _ s
  · exact .refl s
  · exact .refl s
  · exact .refl s

theorem exitPostedHeads_keepsExact (l : List PostedEntry) : ∀ s, KeepsExact s (exitPostedHeads l s) := by
  induction l with
  | nil => exact fun s => .refl s
  | cons e rest ih =>
    intro s
    unfold exitPostedHeads
    dsimp only
    split
    · refine KeepsExact.trans ?_ (ih _)
      refine KeepsExact.trans (b := { s with postedIntake := rest }) (.of_same rfl rfl rfl) ?_
      exact (takePosted_keepsExact e _ _).trans (.of_same rfl rfl rfl)
    · exact .refl s

theorem lookUpHead_keepsExact (s : State) : KeepsExact s (lookUpHead s) := exitPostedHeads_keepsExact _ s

theorem exitHeadsAndTest_keepsExact (s : State) : KeepsExact s (exitHeadsAndTest s) := by
  unfold exitHeadsAndTest
  dsimp only
  split
  · exact lookUpHead_keepsExact s
  · exact (lookUpHead_keepsExact s).trans (testFences_keepsExact [] _)

/-- R49: the count that a retirement lowers is that of the entry that leaves. -/
theorem retire_keepsExact {p : Port} {e : QueueEntry} {s : State} (he : e ∈ (peek s.pwqs p).entries) :
    KeepsExact s (retire p e s) := by
  unfold retire
  refine KeepsExact.trans ?_ ((lookUpHead_keepsExact _).trans (testFences_keepsExact [] _))
  intro h
  refine (countsExact_iff _).2 (CountsOwe.countDown (((countsExact_iff s).1 h).queueChanged (fun g => ?_)))
  have hperm := (List.perm_cons_erase he).countP_eq (fun e => decide (e.generation = g))
  simp only [List.countP_cons] at hperm
  unfold queueShare
  by_cases hg : e.generation = g <;> simp [hg] at hperm ⊢ <;> omega

theorem countDown_foldl_settles (l : List QueueEntry) : ∀ s, CountsOwe (l.map QueueEntry.generation) s →
    CountsOwe [] (l.foldl (fun s e => countDown e.generation s) s) := by
  induction l with
  | nil => exact fun s h => h
  | cons e l ih => exact fun s h => ih _ h.countDown

/-- R51: every entry that a discard takes out of the queue lowers the count of its own generation. -/
theorem discardQueue_keepsExact (p : Port) (c : DiscardCause) (s : State) : KeepsExact s (discardQueue p c s) := by
  have hempty : KeepsExact s ((peek s.pwqs p).entries.foldl (fun s e => countDown e.generation s)
      { s with pwqs := poke s.pwqs p { peek s.pwqs p with entries := [] } }) := by
    intro h
    refine (countsExact_iff _).2 (countDown_foldl_settles _ _ (((countsExact_iff s).1 h).queueChanged (fun g => ?_)))
    simp only [queueShare, List.count_eq_countP, List.countP_map, List.countP_nil, Nat.zero_add, Nat.add_zero]
    rfl
  unfold discardQueue
  dsimp only
  split
  · exact hempty
  · exact hempty.trans (storeRecord_keepsExact _ _)

/-! ## The port exit -/

theorem meetFenceAtExit_keepsExact (i : SlotId) (s : State) : KeepsExact s (meetFenceAtExit i s) := by
  unfold meetFenceAtExit
  split
  · exact .refl s
  · next u hu =>
    split
    · exact enterFenceWait_keepsExact hu
    · exact .refl s

theorem breakAtExit_keepsExact (p : Port) (c : BreakCause) (s : State) : KeepsExact s (breakAtExit p c s) := by
  unfold breakAtExit
  split
  · refine (breakLock_keepsExact p c s).trans ?_
    exact (KeepsExact.fold _ (fun s i => meetFenceAtExit_keepsExact i s) _ _).from_same rfl rfl rfl
  · exact .refl s

theorem freeValidBuffers_keepsExact (p : Port) (s : State) : KeepsExact s (freeValidBuffers p s) := .of_same rfl rfl rfl

theorem markWaiting_keepsExact (p : Port) (s : State) : KeepsExact s { s with slots := s.slots.map (markWaiting p) } := by
  refine .of_shares rfl (fun _ _ => rfl) (fun i => ?_)
  rw [peek_map, markWaiting_eq]
  cases hu : (peek s.slots i).use with
  | none => simp [generationOf, hu]
  | some u => simp only [generationOf, hu, Option.map_some]; split <;> rfl

theorem lostAtExit_keepsExact (i : SlotId) (s : State) : KeepsExact s (lostAtExit i s) := by
  unfold lostAtExit
  split
  · exact .refl s
  · exact (leaveLists_keepsExact i _ s).trans (failSlot_keepsExact i _ _)

theorem answerSlotsAtExit_keepsExact (p : Port) (s : State) : KeepsExact s (answerSlotsAtExit p s) := by
  unfold answerSlotsAtExit
  exact KeepsExact.trans (.fold _ (fun s i => lostAtExit_keepsExact i s) _ s)
    (.fold _ (fun s i => freeSlot_keepsExact i s) _ _)

theorem portExit_keepsExact (p : Port) (c : ExitCauses) (s : State) : KeepsExact s (portExit p c s) := by
  unfold portExit
  refine KeepsExact.trans ?_ (testFences_keepsExact _ _)
  refine KeepsExact.trans ?_ (lookUpHead_keepsExact _)
  refine KeepsExact.trans ?_ (answerSlotsAtExit_keepsExact p _)
  refine KeepsExact.trans ?_ (breakAtExit_keepsExact p c.lock _)
  refine KeepsExact.trans ?_ (markWaiting_keepsExact p _)
  exact (discardQueue_keepsExact p c.discard s).trans (freeValidBuffers_keepsExact p _)

theorem failPort_keepsExact (p : Port) (c : FaultCause) (x : Option SlotId) (s : State) : KeepsExact s (failPort p c x s) := by
  rw [failPort_eq]
  refine KeepsExact.trans ?_ (portExit_keepsExact p _ _)
  exact (storeRecord_keepsExact _ _).from_same rfl rfl rfl

end Sys2Proof.Machine
end

section
/-! PROOFS. R12, kept by every command. -/

namespace Sys2Proof.Machine

/-- A command's outcome keeps the counts of the state it ran on exact. -/
def OutcomeKeepsExact (s : State) (o : Host.Outcome State Fault Refusal) : Prop := ∀ t, o = .next t → KeepsExact s t

theorem OutcomeKeepsExact.next {s t : State} (h : KeepsExact s t) : OutcomeKeepsExact s (.next t) := by
  intro t' e
  cases e
  exact h

theorem OutcomeKeepsExact.event {act : State → State} {s : State} (h : KeepsExact s (act s)) :
    OutcomeKeepsExact s (event act s) := .next (h.trans (raiseOnFirstRecord_keepsExact s _))

/-! ## Arrivals -/

theorem takeFreeAddress_keepsExact (words : List Word) (s : State) : KeepsExact s (takeFreeAddress words s) := by
  unfold takeFreeAddress
  split
  · exact .of_same rfl rfl rfl
  · exact .refl s

theorem spendCredit_keepsExact (c : CreditClass) (s : State) : KeepsExact s (spendCredit c s) := by
  cases c <;> exact .of_same rfl rfl rfl

theorem dropMalformed_keepsExact (c : MalformedCause) (a : Option Agent) (t : Option Tag) (addr : Option Addr) (s : State) :
    KeepsExact s (dropMalformed c a t addr s) := storeRecord_keepsExact _ s

theorem joinPosted_keepsExact (a : Agent) (addr : Addr) (length : Nat) (data : List Byte) (s : State) :
    KeepsExact s (joinPosted a addr length data s) := by
  unfold joinPosted
  dsimp only
  split
  · exact (exitHeadsAndTest_keepsExact _).from_same rfl rfl rfl
  · exact .of_same rfl rfl rfl

theorem arrivePosted_keepsExact (agent : BitVec 4) (length : Nat) (words : List Word) (data : List Byte) (s : State) :
    KeepsExact s (arrivePosted agent length words data s) := by
  unfold arrivePosted
  dsimp only
  split
  · exact dropMalformed_keepsExact _ _ _ _ s
  · split
    · exact dropMalformed_keepsExact _ _ _ _ s
    · split
      · exact storeRecord_keepsExact _ s
      · exact joinPosted_keepsExact _ _ _ _ s

theorem admitNonPosted_keepsExact (a : Agent) (t : Tag) (kind : UpKind) (body : NonPostedBody) (s : State) :
    KeepsExact s (admitNonPosted a t kind body s) := by
  unfold admitNonPosted
  split
  · exact storeRecord_keepsExact _ s
  · split
    · exact storeRecord_keepsExact _ s
    · exact .of_same rfl rfl rfl

theorem arriveAccess_keepsExact (k : SlotKind) (agent : BitVec 4) (tag : BitVec 6) (length : Nat) (words : List Word)
    (data : List Byte) (s : State) : KeepsExact s (arriveAccess k agent tag length words data s) := by
  unfold arriveAccess
  dsimp only
  split
  · split
    · exact dropMalformed_keepsExact _ _ _ _ s
    · exact admitNonPosted_keepsExact _ _ _ _ s
  · exact dropMalformed_keepsExact _ _ _ _ s

theorem accessArrives_keepsExact (k : SlotKind) (agent : BitVec 4) (tag : BitVec 6) (length : BitVec 9) (words : List Word)
    (data : List Byte) (s : State) : KeepsExact s (accessArrives k agent tag length words data s) :=
  ((spendCredit_keepsExact .nonPosted s).trans (arriveAccess_keepsExact k agent tag _ words data _)).trans
    (takeFreeAddress_keepsExact words _)

theorem arriveRelease_keepsExact (agent : BitVec 4) (tag : BitVec 6) (words : List Word) (data : List Byte) (s : State) :
    KeepsExact s (arriveRelease agent tag words data s) := by
  unfold arriveRelease
  split
  · split
    · exact admitNonPosted_keepsExact _ _ _ _ s
    · exact dropMalformed_keepsExact _ _ _ _ s
  · exact dropMalformed_keepsExact _ _ _ _ s

theorem takeManagementHead_keepsExact (s : State) : KeepsExact s (takeManagementHead s) := by
  unfold takeManagementHead
  split
  · exact .of_same rfl rfl rfl
  · exact .refl s
  · exact .refl s

theorem admitManagement_keepsExact (e : ManagementEntry) (s : State) : KeepsExact s (admitManagement e s) := by
  unfold admitManagement
  split
  · exact storeRecord_keepsExact _ s
  · split
    · exact storeRecord_keepsExact _ s
    · unfold joinManagement
      dsimp only
      split
      · exact (takeManagementHead_keepsExact _).from_same rfl rfl rfl
      · exact .of_same rfl rfl rfl

theorem arriveManagement_keepsExact (agent : BitVec 4) (tag : BitVec 6) (operation : BitVec 4) (index : BitVec 7)
    (words : List Word) (data : List Byte) (s : State) :
    KeepsExact s (arriveManagement agent tag operation index words data s) := by
  unfold arriveManagement
  split
  · split
    · exact dropMalformed_keepsExact _ _ _ _ s
    · split
      · exact dropMalformed_keepsExact _ _ _ _ s
      · exact admitManagement_keepsExact _ s
  · exact dropMalformed_keepsExact _ _ _ _ s

theorem takeServiceDone_keepsExact (a : Agent) (v : VectorId) (s : State) : KeepsExact s (takeServiceDone a v s) := by
  unfold takeServiceDone
  split
  · exact storeRecord_keepsExact _ s
  · exact storeRecord_keepsExact _ s
  · split
    · exact (endService_frame v a s).keepsExact
    · exact storeRecord_keepsExact _ s

theorem arriveServiceDone_keepsExact (agent : BitVec 4) (vector : BitVec 7) (words : List Word) (data : List Byte)
    (s : State) : KeepsExact s (arriveServiceDone agent vector words data s) := by
  unfold arriveServiceDone
  split
  · split
    · exact takeServiceDone_keepsExact _ _ s
    · exact dropMalformed_keepsExact _ _ _ _ s
  · exact dropMalformed_keepsExact _ _ _ _ s

/-! ## The exit of the non-posted intake -/

theorem answerNow_keepsExact (e : NonPostedEntry) (st : Status) (data : List Byte) (s : State) :
    KeepsExact s (answerNow e st data s) := .of_same rfl rfl rfl

theorem takeAccess_keepsExact (e : NonPostedEntry) (k : SlotKind) (a : Addr) (n : Nat) (data : List Byte) (d : Decoded)
    (s : State) : KeepsExact s (takeAccess e k a n data d s) := by
  unfold takeAccess
  split
  · refine KeepsExact.trans ?_ (answerNow_keepsExact e _ _ _)
    split
    · exact storeRecord_keepsExact _ s
    · exact .refl s
  · exact (storeRecord_keepsExact _ s).trans (answerNow_keepsExact e _ _ _)
  · exact answerNow_keepsExact e _ _ s
  · exact answerNow_keepsExact e _ _ s
  · exact (storeRecord_keepsExact _ s).trans (answerNow_keepsExact e _ _ _)
  · exact answerNow_keepsExact e _ _ s
  · exact .of_same rfl rfl rfl
  · exact allocate_keepsExact e k data _ s

theorem takeRelease_keepsExact (e : NonPostedEntry) (s : State) : KeepsExact s (takeRelease e s) := by
  unfold takeRelease
  split
  · exact (answerNow_keepsExact e _ _ s).trans (openLock_keepsExact _ _)
  · split
    · exact .of_same rfl rfl rfl
    · exact (storeRecord_keepsExact _ s).trans (answerNow_keepsExact e _ _ _)

theorem exitNonPosted_keepsExact (e : NonPostedEntry) (s : State) : KeepsExact s (exitNonPosted e s) := by
  unfold exitNonPosted
  dsimp only
  split
  · exact (takeRelease_keepsExact e _).from_same rfl rfl rfl
  · exact (takeAccess_keepsExact e _ _ _ _ _ _).from_same rfl rfl rfl

/-! ## Messages from a target -/

theorem ifActive_keepsExact {act : State → State} (h : ∀ s, KeepsExact s (act s)) (p : Port) (s : State) :
    KeepsExact s (ifActive p act s) := by
  unfold ifActive
  split
  · exact h s
  · exact .refl s

theorem takeReady_keepsExact (p : Port) (posted nonPosted : Nat) (s : State) :
    KeepsExact s (takeReady p posted nonPosted s) := by
  unfold takeReady
  dsimp only
  split
  · split
    · exact .of_same rfl rfl rfl
    · exact failPort_keepsExact p _ _ s
  · exact failPort_keepsExact p _ _ s
  · exact .refl s
  · exact .refl s

theorem takeCredit_keepsExact (p : Port) (lane : Lane) (count : Nat) (s : State) :
    KeepsExact s (takeCredit p lane count s) := by
  unfold takeCredit
  dsimp only
  split
  · split
    · exact failPort_keepsExact p _ _ s
    · exact .of_same rfl rfl rfl
  · split
    · exact failPort_keepsExact p _ _ s
    · exact .of_same rfl rfl rfl

theorem takeReceipt_keepsExact (p : Port) (seq : WriteSeq) (s : State) : KeepsExact s (takeReceipt p seq s) := by
  unfold takeReceipt
  split
  · next e he =>
    split
    · exact retire_keepsExact (List.mem_of_find?_eq_some he)
    · exact failPort_keepsExact p _ _ s
  · exact failPort_keepsExact p _ _ s

theorem takeInterrupt_keepsExact (p : Port) (vector : BitVec 7) (s : State) : KeepsExact s (takeInterrupt p vector s) := by
  unfold takeInterrupt
  split
  · split
    · exact storeRecord_keepsExact _ s
    · exact (raiseVector_frame _ s).keepsExact
  · exact storeRecord_keepsExact _ s

/-! ## Completion pieces -/

theorem completeRead_keepsExact (i : SlotId) (u : SlotUse) (block : List Byte) (s : State) :
    KeepsExact s (completeRead i u block s) := by
  unfold completeRead
  split
  · exact ((reply_keepsExact u _ _ s).trans (endFillDone_keepsExact _ _ _)).trans (freeSlot_keepsExact i _)
  · exact (answerSlot_keepsExact i _ _ s).trans (lockActs_keepsExact i _ _ _)
  · exact (answerSlot_keepsExact i _ _ s).trans (lockActs_keepsExact i _ _ _)

theorem takeReadPiece_keepsExact {i : SlotId} {u : SlotUse} {s : State} (hu : slotUse s i = some u) (p : Port)
    (offset count : Nat) (data : List Byte) : KeepsExact s (takeReadPiece p i u offset count data s) := by
  unfold takeReadPiece
  split
  · exact failPort_keepsExact p _ _ s
  · have hput : KeepsExact s
        (putUse i (some { u with state := .assembling, received := putBytes u.received offset data }) s) :=
      putUse_keepsExact hu rfl
    dsimp only
    split
    · exact hput.trans (completeRead_keepsExact i _ _ _)
    · exact hput

theorem takeWritePiece_keepsExact (p : Port) (i : SlotId) (u : SlotUse) (count : Nat) (data : List Byte) (s : State) :
    KeepsExact s (takeWritePiece p i u count data s) := by
  unfold takeWritePiece
  split
  · exact (answerSlot_keepsExact i _ _ s).trans (lockActs_keepsExact i _ _ _)
  · exact failPort_keepsExact p _ _ s

theorem takeMatchingPiece_keepsExact {i : SlotId} {u : SlotUse} {s : State} (hu : slotUse s i = some u) (p : Port)
    (status : PieceStatus) (offset count : Nat) (data : List Byte) :
    KeepsExact s (takeMatchingPiece p i u status offset count data s) := by
  unfold takeMatchingPiece
  split
  · exact (freeSlot_keepsExact i s).trans (storeRecord_keepsExact _ _)
  · cases status with
    | fault => exact (failSlot_keepsExact i _ s).trans (lockActs_keepsExact i _ _ _)
    | good =>
      dsimp only
      split
      · exact takeReadPiece_keepsExact hu p _ _ _
      · exact takeReadPiece_keepsExact hu p _ _ _
      · exact takeWritePiece_keepsExact p i u _ _ s
      · exact takeWritePiece_keepsExact p i u _ _ s

theorem takePiece_keepsExact (p : Port) (tag : BitVec 8) (status : PieceStatus) (offset count : Nat) (data : List Byte)
    (s : State) : KeepsExact s (takePiece p tag status offset count data s) := by
  unfold takePiece
  split
  · exact failPort_keepsExact p _ _ s
  · split
    · exact storeRecord_keepsExact _ s
    · split
      · next u hu => exact takeMatchingPiece_keepsExact hu p _ _ _ _
      · exact .refl s

/-! ## Sends -/

theorem markSent_generations (seq : WriteSeq) (l : List QueueEntry) :
    (markSent seq l).map QueueEntry.generation = l.map QueueEntry.generation := by
  induction l with
  | nil => rfl
  | cons e l ih =>
    unfold markSent
    split
    · rfl
    · rw [List.map_cons, ih, List.map_cons]

theorem queueShare_eq_count (g : Generation) (q : PostedQueue) :
    queueShare g q = (q.entries.map QueueEntry.generation).count g := by
  rw [queueShare, List.count_eq_countP, List.countP_map]
  rfl

theorem sendPosted_keepsExact (p : Port) (e : QueueEntry) (s : State) : KeepsExact s (sendPosted p e s) := by
  refine .of_shares rfl (fun g q => ?_) (fun _ => rfl)
  have hpwqs : (sendPosted p e s).pwqs = poke s.pwqs p
      { entries := markSent (peek s.pwqs p).nextSeq (peek s.pwqs p).entries, nextSeq := (peek s.pwqs p).nextSeq + 1 } := rfl
  rw [hpwqs, peek_poke]
  split
  · next h => subst h; rw [queueShare_eq_count, queueShare_eq_count, markSent_generations]
  · rfl

theorem sendNonPosted_keepsExact {i : SlotId} {u : SlotUse} {s : State} (hu : slotUse s i = some u) (p : Port) :
    KeepsExact s (sendNonPosted p i u s) :=
  (putUse_keepsExact (v := { u with state := .sent }) hu rfl).trans (.of_same rfl rfl rfl)

/-! ## Timers -/

theorem orphanSlot_keepsExact {i : SlotId} {u : SlotUse} {s : State} (hu : slotUse s i = some u) :
    KeepsExact s (orphanSlot i u s) := by
  unfold orphanSlot
  refine KeepsExact.trans ?_ (endLedFill_keepsExact u _ _)
  refine (reply_keepsExact u _ _ s).trans (putUse_keepsExact (u := u) ?_ rfl)
  rw [slotUse_reply]
  exact hu

theorem expireSlot_keepsExact {i : SlotId} {u : SlotUse} {s : State} (hu : slotUse s i = some u) :
    KeepsExact s (expireSlot i u s) := by
  unfold expireSlot
  refine KeepsExact.trans ?_ (lockActs_keepsExact i _ _ _)
  refine (storeRecord_keepsExact (.completionExpired u.agent u.tag u.port i u.state) s).trans ?_
  split
  · exact orphanSlot_keepsExact (by rw [slotUse, storeRecord_slots]; exact hu)
  · exact (leaveLists_keepsExact i u _).trans (failSlot_keepsExact i _ _)

theorem endDrainIfDone_keepsExact (s : State) : KeepsExact s (endDrainIfDone s) := by
  refine .of_same ?_ (endDrainIfDone_frame s).pwqs ?_ <;>
    (unfold endDrainIfDone endDrain copyActiveBank; dsimp only; repeat' split) <;> rfl

/-! ## Management -/

@[simp] theorem answerDone_after (s : State) : (answerDone s).after = s := rfl

theorem endRequest_keepsExact {r : ManagementEntry} {rule : ManagementEntry → State → Answer}
    (h : ∀ s, KeepsExact s (rule r s).after) (s : State) : KeepsExact s (endRequest r rule s) := by
  have hanswer : KeepsExact s (answerRequest r rule { s with current := none }).after := by
    unfold answerRequest
    split
    · exact .of_same rfl rfl rfl
    · split
      · exact (storeRecord_keepsExact _ _).from_same rfl rfl rfl
      · split
        · exact .of_same rfl rfl rfl
        · exact (h _).from_same rfl rfl rfl
  exact (hanswer.trans (raiseOnFirstRecord_keepsExact s _)).trans (.of_same rfl rfl rfl)

theorem executionEnd_keepsExact {named : ManagementEntry → Bool} {rule : ManagementEntry → State → Answer}
    (h : ∀ r s, KeepsExact s (rule r s).after) (s : State) : OutcomeKeepsExact s (executionEnd named rule s) := by
  unfold executionEnd
  split
  · split
    · exact .next (endRequest_keepsExact (h _) s)
    · exact .next (.refl s)
  · exact .next (.refl s)

theorem enterWaiting_keepsExact (p : Port) (s : State) : KeepsExact s (enterWaiting p s) := by
  refine .of_shares rfl (fun g q => ?_) (fun _ => rfl)
  have hpwqs : (enterWaiting p s).pwqs = poke s.pwqs p { peek s.pwqs p with nextSeq := 0 } := rfl
  rw [hpwqs, peek_poke]
  split
  · next h => subst h; rfl
  · rfl

theorem portControlRule_keepsExact (r : ManagementEntry) (s : State) : KeepsExact s (portControlRule r s).after := by
  unfold portControlRule
  split
  · exact .refl s
  · split
    · unfold enableRule; split
      · exact enterWaiting_keepsExact _ s
      · exact .refl s
    · split
      · unfold disableRule; split
        · exact .refl s
        · exact (portExit_keepsExact _ _ _).from_same rfl rfl rfl
      · split
        · unfold restartRule; split
          · exact enterWaiting_keepsExact _ s
          · exact .refl s
        · exact .refl s

theorem stageWindowRule_keepsExact (r : ManagementEntry) (s : State) : KeepsExact s (stageWindowRule r s).after := by
  unfold stageWindowRule
  split
  · exact .refl s
  · split
    · split
      · exact .refl s
      · unfold stageEntry
        cases s.activeBank <;> exact .of_same rfl rfl rfl
    · exact .refl s

theorem resteer_keepsExact (s : State) : KeepsExact s (resteer s) := (resteer_frame s).keepsExact

theorem readRegisterRule_keepsExact (r : ManagementEntry) (s : State) : KeepsExact s (readRegisterRule r s).after := by
  unfold readRegisterRule
  split <;> exact .refl s

theorem readErrorStatusRule_keepsExact (r : ManagementEntry) (s : State) :
    KeepsExact s (readErrorStatusRule r s).after := by
  unfold readErrorStatusRule
  split <;> exact .of_same rfl rfl rfl

theorem writeMaskRule_keepsExact (r : ManagementEntry) (s : State) : KeepsExact s (writeMaskRule r s).after := by
  unfold writeMaskRule
  dsimp only
  split <;> exact .of_same rfl rfl rfl

theorem writeTimeoutRule_keepsExact (r : ManagementEntry) (s : State) : KeepsExact s (writeTimeoutRule r s).after := by
  unfold writeTimeoutRule
  dsimp only
  split <;> exact .of_same rfl rfl rfl

theorem writeHoldRule_keepsExact (r : ManagementEntry) (s : State) : KeepsExact s (writeHoldRule r s).after := by
  unfold writeHoldRule
  dsimp only
  split <;> exact .of_same rfl rfl rfl

theorem writeMasksRule_keepsExact (r : ManagementEntry) (s : State) : KeepsExact s (writeMasksRule r s).after := by
  unfold writeMasksRule
  rw [answerDone_after]
  exact (resteer_keepsExact _).from_same rfl rfl rfl

theorem readWindowRule_keepsExact (r : ManagementEntry) (s : State) : KeepsExact s (readWindowRule r s).after := by
  unfold readWindowRule
  split <;> exact .refl s

theorem writeVectorRule_keepsExact (r : ManagementEntry) (s : State) : KeepsExact s (writeVectorRule r s).after := by
  unfold writeVectorRule
  dsimp only
  split
  · exact .refl s
  · rw [answerDone_after]
    exact (resteer_keepsExact _).from_same rfl rfl rfl

theorem takeRecordRule_keepsExact (r : ManagementEntry) (s : State) : KeepsExact s (takeRecordRule r s).after := by
  unfold takeRecordRule
  split <;> exact .of_same rfl rfl rfl

theorem commitAccepted_keepsExact (r : ManagementEntry) (s : State) : KeepsExact s (commitAccepted r s) := by
  unfold commitAccepted
  refine KeepsExact.trans ?_ (endDrainIfDone_keepsExact _)
  refine KeepsExact.trans ?_ (raiseOnFirstRecord_keepsExact s _)
  unfold acceptCommit swapBanks
  refine KeepsExact.trans ((exitHeadsAndTest_keepsExact _).from_same ?_ ?_ ?_) (.of_same rfl rfl rfl) <;> rfl

/-! ## Resets -/

theorem resetLocks_keepsExact (s : State) : KeepsExact s (resetLocks s) := by
  unfold resetLocks
  exact (KeepsExact.fold _ (fun s p => breakLock_keepsExact p _ s) allPorts s).trans (.of_same rfl rfl rfl)

theorem dropSlot_keepsExact (i : SlotId) (u : SlotUse) (s : State) : KeepsExact s (dropSlot i u s) := by
  unfold dropSlot
  split
  · exact (putBuffer_keepsExact _ _ s).trans (freeSlot_keepsExact i _)
  · exact freeSlot_keepsExact i s
  · exact freeSlot_keepsExact i s

theorem resetSlot_keepsExact (i : SlotId) (s : State) : KeepsExact s (resetSlot i s) := by
  unfold resetSlot
  split
  · exact .refl s
  · next u hu =>
    split
    · exact dropSlot_keepsExact i u s
    · exact dropSlot_keepsExact i u s
    · exact dropSlot_keepsExact i u s
    · exact dropSlot_keepsExact i u s
    · exact putUse_keepsExact hu rfl
    · exact putUse_keepsExact hu rfl
    · exact .refl s

theorem resetSteering_keepsExact (first : Bool) (s : State) : KeepsExact s (resetSteering first s) := by
  unfold resetSteering
  refine KeepsExact.trans ?_ (resteer_keepsExact _)
  split
  · unfold pendVectorZero
    split <;> exact .of_same rfl rfl rfl
  · exact .of_same rfl rfl rfl

theorem resetTracker_keepsExact (s : State) : KeepsExact s (resetTracker s) := by
  unfold resetTracker
  refine (KeepsExact.fold _ (fun s i => resetSlot_keepsExact i s) allSlots s).trans ?_
  generalize allSlots.foldl (fun s i => resetSlot i s) s = t
  exact .of_same rfl rfl rfl

theorem upstreamReset_keepsExact (s : State) : KeepsExact s (upstreamReset s) := by
  unfold upstreamReset
  refine KeepsExact.trans ?_ (resetSteering_keepsExact _ _)
  refine KeepsExact.trans ?_ (resetTracker_keepsExact _)
  refine KeepsExact.trans ?_ (resetLocks_keepsExact _)
  exact (storeRecord_keepsExact _ _).from_same rfl rfl rfl

/-- R12 after a cold reset: no queue and no slot holds a request, and every count is 0. -/
theorem reset_countsExact : CountsExact State.reset := by
  intro g
  have hq : queuedOf g State.reset = 0 := by
    simp [queuedOf, State.reset]
  have hs : slotsOf g State.reset = 0 :=
    List.countP_eq_zero.2 (fun i _ => by simp [slotOfGeneration, slotUse, State.reset])
  rw [hq, hs]
  simp [countOf, State.reset]

theorem execColdReset_keepsExact (s : State) : OutcomeKeepsExact s (execColdReset s) :=
  .next (fun _ => reset_countsExact)

/-! ## Every command -/

theorem execPostedWrite_keepsExact (agent : BitVec 4) (length : BitVec 9) (words : List Word) (data : List Byte)
    (s : State) : OutcomeKeepsExact s (execPostedWrite agent length words data s) := by
  refine .event (KeepsExact.trans ?_ (takeFreeAddress_keepsExact words _))
  exact (spendCredit_keepsExact .posted s).trans (arrivePosted_keepsExact agent _ words data _)

theorem execExclusiveRelease_keepsExact (agent : BitVec 4) (tag : BitVec 6) (words : List Word) (data : List Byte)
    (s : State) : OutcomeKeepsExact s (execExclusiveRelease agent tag words data s) := by
  refine .event (KeepsExact.trans ?_ (arriveRelease_keepsExact agent tag words data _))
  exact spendCredit_keepsExact .nonPosted s

theorem execManagementRequest_keepsExact (agent : BitVec 4) (tag : BitVec 6) (operation : BitVec 4) (index : BitVec 7)
    (words : List Word) (data : List Byte) (s : State) :
    OutcomeKeepsExact s (execManagementRequest agent tag operation index words data s) := by
  refine .event (KeepsExact.trans ?_ (arriveManagement_keepsExact agent tag operation index words data _))
  exact spendCredit_keepsExact .management s

theorem execNonPostedIntakeExit_keepsExact (s : State) : OutcomeKeepsExact s (execNonPostedIntakeExit s) := by
  unfold execNonPostedIntakeExit
  split
  · exact .event (exitNonPosted_keepsExact _ s)
  · exact .next (.refl s)

theorem execPostedWriteSend_keepsExact (p : Port) (s : State) : OutcomeKeepsExact s (execPostedWriteSend p s) := by
  unfold execPostedWriteSend
  split
  · exact .next (sendPosted_keepsExact p _ s)
  · exact .next (.refl s)

theorem execNonPostedSend_keepsExact (p : Port) (s : State) : OutcomeKeepsExact s (execNonPostedSend p s) := by
  unfold execNonPostedSend
  split
  · split
    · next u hu => exact .next (sendNonPosted_keepsExact hu p)
    · exact .next (.refl s)
  · exact .next (.refl s)

theorem execPortLinkFault_keepsExact (p : Port) (s : State) : OutcomeKeepsExact s (execPortLinkFault p s) := by
  refine .event ?_
  split
  · exact failPort_keepsExact p _ none s
  · exact .refl s

theorem execCompletionTimerExpiry_keepsExact (i : SlotId) (s : State) :
    OutcomeKeepsExact s (execCompletionTimerExpiry i s) := by
  unfold execCompletionTimerExpiry
  split
  · next u hu =>
    split
    · exact .event (expireSlot_keepsExact hu)
    · exact .next (.refl s)
  · exact .next (.refl s)

theorem execOrphanTimerExpiry_keepsExact (i : SlotId) (s : State) : OutcomeKeepsExact s (execOrphanTimerExpiry i s) := by
  unfold execOrphanTimerExpiry
  split
  · split
    · exact .event ((freeSlot_keepsExact i s).trans (storeRecord_keepsExact _ _))
    · exact .next (.refl s)
  · exact .next (.refl s)

theorem execHoldTimerExpiry_keepsExact (p : Port) (s : State) : OutcomeKeepsExact s (execHoldTimerExpiry p s) := by
  unfold execHoldTimerExpiry
  split
  · split
    · exact .event ((breakLock_keepsExact p _ s).trans (openLock_keepsExact p _))
    · exact .next (.refl s)
  · exact .next (.refl s)
  · exact .next (.refl s)

theorem execCommitWindows_keepsExact (s : State) : OutcomeKeepsExact s (execCommitWindows s) := by
  unfold execCommitWindows
  split
  · split
    · exact .next (commitAccepted_keepsExact _ s)
    · exact executionEnd_keepsExact (fun _ s => .refl s) s
  · exact .next (.refl s)

theorem execEgressTransmission_keepsExact (s : State) : OutcomeKeepsExact s (execEgressTransmission s) := by
  unfold execEgressTransmission
  split
  · exact .next (.refl s)
  · exact .next (.of_same rfl rfl rfl)

theorem exec_keepsExact (c : Instr) (s : State) : OutcomeKeepsExact s (exec c s) := by
  cases c with
  | coldReset => exact execColdReset_keepsExact s
  | upstreamLinkReset => exact .next (upstreamReset_keepsExact s)
  | postedWrite agent length words data => exact execPostedWrite_keepsExact agent length words data s
  | read agent tag length words data => exact .event (accessArrives_keepsExact .read agent tag length words data s)
  | nonPostedWrite agent tag length words data =>
    exact .event (accessArrives_keepsExact .nonPostedWrite agent tag length words data s)
  | exclusiveRead agent tag length words data =>
    exact .event (accessArrives_keepsExact .exclusiveRead agent tag length words data s)
  | exclusiveWrite agent tag length words data =>
    exact .event (accessArrives_keepsExact .exclusiveWrite agent tag length words data s)
  | exclusiveRelease agent tag words data => exact execExclusiveRelease_keepsExact agent tag words data s
  | managementRequest agent tag operation index words data =>
    exact execManagementRequest_keepsExact agent tag operation index words data s
  | serviceDone agent vector words data => exact .event (arriveServiceDone_keepsExact agent vector words data s)
  | unknownKindPacket kind agent => exact .event (dropMalformed_keepsExact _ _ _ _ s)
  | postedIntakeExit => exact .event (exitHeadsAndTest_keepsExact s)
  | nonPostedIntakeExit => exact execNonPostedIntakeExit_keepsExact s
  | postedWriteSend port => exact execPostedWriteSend_keepsExact port s
  | nonPostedSend port => exact execNonPostedSend_keepsExact port s
  | readyMessage port postedGrant nonPostedGrant => exact .event (takeReady_keepsExact port _ _ s)
  | creditReturn port lane count => exact .event (ifActive_keepsExact (takeCredit_keepsExact port lane _) port s)
  | receipt port seq => exact .event (ifActive_keepsExact (takeReceipt_keepsExact port seq) port s)
  | completionPiece port tag status offset count data =>
    exact .event (ifActive_keepsExact (takePiece_keepsExact port tag status _ _ data) port s)
  | interruptMessage port vector => exact .event (ifActive_keepsExact (takeInterrupt_keepsExact port vector) port s)
  | malformedMessage port => exact .event (ifActive_keepsExact (failPort_keepsExact port _ none) port s)
  | portLinkFault port => exact execPortLinkFault_keepsExact port s
  | completionTimerExpiry slot => exact execCompletionTimerExpiry_keepsExact slot s
  | orphanTimerExpiry slot => exact execOrphanTimerExpiry_keepsExact slot s
  | holdTimerExpiry port => exact execHoldTimerExpiry_keepsExact port s
  | commitDrainEnd => exact .next (endDrainIfDone_keepsExact s)
  | managementTake => exact .next (takeManagementHead_keepsExact s)
  | undefinedOperation => exact executionEnd_keepsExact (fun _ s => .refl s) s
  | readRegister => exact executionEnd_keepsExact readRegisterRule_keepsExact s
  | readErrorQueueStatus => exact executionEnd_keepsExact readErrorStatusRule_keepsExact s
  | writeRegister => exact executionEnd_keepsExact (fun _ s => .refl s) s
  | writeManagementAgentMask => exact executionEnd_keepsExact writeMaskRule_keepsExact s
  | writeMissPolicy => exact executionEnd_keepsExact (fun _ _ => .of_same rfl rfl rfl) s
  | writeCompletionTimeout => exact executionEnd_keepsExact writeTimeoutRule_keepsExact s
  | writeExclusiveHoldLimit => exact executionEnd_keepsExact writeHoldRule_keepsExact s
  | writeAgentInterruptMasks => exact executionEnd_keepsExact writeMasksRule_keepsExact s
  | stageWindow => exact executionEnd_keepsExact stageWindowRule_keepsExact s
  | readWindow => exact executionEnd_keepsExact readWindowRule_keepsExact s
  | commitWindows => exact execCommitWindows_keepsExact s
  | portControlEnable => exact executionEnd_keepsExact portControlRule_keepsExact s
  | portControlDisable => exact executionEnd_keepsExact portControlRule_keepsExact s
  | portControlRestart => exact executionEnd_keepsExact portControlRule_keepsExact s
  | writeVector => exact executionEnd_keepsExact writeVectorRule_keepsExact s
  | readVector => exact executionEnd_keepsExact (fun _ s => .refl s) s
  | takeErrorRecord => exact executionEnd_keepsExact takeRecordRule_keepsExact s
  | bridgeTimeAdvance => exact .next (.of_same rfl rfl rfl)
  | egressTransmission => exact execEgressTransmission_keepsExact s

/-- Settles O56: the command a step takes runs on a state that differs from the one before in the queue of commands alone. -/
theorem countsExactKept : Obligations.CountsExactKept := by
  unfold Obligations.CountsExactKept
  intro s t h hstep
  unfold step at hstep
  split at hstep
  · cases hstep
    exact h
  · next c rest hp =>
    exact exec_keepsExact c _ t hstep (KeepsExact.of_same (t := { s with pending := rest }) rfl rfl rfl h)

end Sys2Proof.Machine
end

section
/-! PROOFS. Windows: the lookup, the translation, and the table of a decode (R3, R6, R8). -/

namespace Sys2Proof.Machine

/-! ## The first of a numbered list -/

/-- The lowest number that passes a test. -/
theorem find?_finRange_eq_some {n : Nat} {p : Fin n → Bool} {i : Fin n} :
    (List.finRange n).find? p = some i ↔ p i = true ∧ ∀ j, j < i → p j = false := by
  rw [List.find?_eq_some_iff_getElem]
  constructor
  · rintro ⟨hp, k, hk, hki, hbefore⟩
    rw [List.getElem_finRange] at hki
    subst hki
    refine ⟨hp, fun j hj => ?_⟩
    simpa using hbefore j.val hj
  · rintro ⟨hp, hbefore⟩
    refine ⟨hp, i.val, by simp, by simp, fun j hj => ?_⟩
    simpa using hbefore ⟨j, Nat.lt_trans hj i.isLt⟩ hj

/-! ## Lookup (R3) -/

/-- R3: what it is for an entry to contain an address. -/
theorem covers_iff (w : WindowEntry) (a : Addr) :
    covers w a = true ↔ w.valid = true ∧ w.base ≤ pageOf a ∧ pageOf a ≤ w.limit := by
  simp [covers, and_assoc]

theorem lookup_eq_some_iff (a : Addr) (s : State) (i : WindowId) :
    lookup a s = some i ↔
      covers (peek (activeEntries s) i) a = true ∧ ∀ j, j < i → covers (peek (activeEntries s) j) a = false :=
  find?_finRange_eq_some

theorem lookup_eq_none_iff (a : Addr) (s : State) :
    lookup a s = none ↔ ∀ i, covers (peek (activeEntries s) i) a = false := by
  simp [lookup, allWindows]

/-- R3: bytes of one 256-byte block lie in one page. -/
theorem pageOf_add_in_block (a : Addr) (k : Nat) (h : a.toNat % 256 + k < 256) :
    pageOf (a + BitVec.ofNat 40 k) = pageOf a := by
  apply BitVec.eq_of_toNat_eq
  have ha := a.isLt
  rw [pageOf_toNat, pageOf_toNat, BitVec.toNat_add, BitVec.toNat_ofNat]
  omega

/-- Settles O11. -/
theorem lookupFindsTheLowestEntry : Obligations.LookupFindsTheLowestEntry := by
  unfold Obligations.LookupFindsTheLowestEntry
  intro a s
  refine ⟨fun i => ?_, ?_, fun k hk => pageOf_add_in_block a k hk⟩
  · rw [lookup_eq_some_iff, covers_iff]
    refine and_congr Iff.rfl (forall_congr' fun j => imp_congr_right fun _ => ?_)
    rw [← Bool.not_eq_true, covers_iff]
    rfl
  · rw [lookup_eq_none_iff]
    refine forall_congr' fun i => ?_
    rw [← Bool.not_eq_true, covers_iff]
    rfl

/-! ## Translation (R6) -/

/-- R6: a translation moves an address by whole pages. -/
theorem downstreamAddress_mod (w : WindowEntry) (a : Addr) :
    (downstreamAddress w a).toNat % 4096 = a.toNat % 4096 := by
  have hb := w.base.isLt
  have ha := a.isLt
  rw [downstreamAddress_toNat]
  omega

/-- R6, R93: the block of a translated address is the translation of its block. -/
theorem blockOf_downstreamAddress (w : WindowEntry) (a : Addr) :
    blockOf (downstreamAddress w a) = downstreamAddress w (blockOf a) := by
  apply BitVec.eq_of_toNat_eq
  have hb := w.base.isLt
  have ha := a.isLt
  rw [blockOf_toNat, downstreamAddress_toNat, downstreamAddress_toNat, blockOf_toNat]
  omega

/-- Settles O13. -/
theorem translationKeepsThePageOffset : Obligations.TranslationKeepsThePageOffset := by
  unfold Obligations.TranslationKeepsThePageOffset
  exact fun w a =>
    ⟨downstreamAddress_mod w a, downstreamAddress_toNat w a, blockOf_downstreamAddress w a, blockOf_toNat a⟩

/-! ## The table of a decode (R8) -/

/-- R4: the rights a kind needs. -/
theorem hasRights_iff (w : WindowEntry) (kind : AccessKind) :
    hasRights w kind = true ↔
      match kind with
      | .posted => w.writeRight = true
      | .nonPosted .read => w.readRight = true
      | .nonPosted .nonPostedWrite => w.writeRight = true
      | .nonPosted .exclusiveRead => w.exclusiveRight = true
      | .nonPosted .exclusiveWrite => w.exclusiveRight = true ∧ w.writeRight = true := by
  cases kind with
  | posted => exact Iff.rfl
  | nonPosted k => cases k <;> simp [hasRights]

theorem isExclusive_iff (kind : AccessKind) :
    isExclusive kind = true ↔ kind = .nonPosted .exclusiveRead ∨ kind = .nonPosted .exclusiveWrite := by
  cases kind with
  | posted => simp [isExclusive]
  | nonPosted k => cases k <;> simp [isExclusive]

section Rows

variable {kind : AccessKind} {agent : Agent} {a : Addr} {length : Nat} {s : State} {i : WindowId}

/-- R8 row 1. -/
theorem decode_unmapped (h : lookup a s = none) : decode kind agent a length s = .unmapped := by
  simp [decode, h]

/-- R8 row 2: the window leaves the agent out, or does not give the rights. -/
theorem decode_refused (h : lookup a s = some i)
    (hw : ¬ (hasAgent (peek (activeEntries s) i).agents agent = true ∧ hasRights (peek (activeEntries s) i) kind = true)) :
    decode kind agent a length s = .refused i := by
  have hw' : (!(hasAgent (peek (activeEntries s) i).agents agent && hasRights (peek (activeEntries s) i) kind)) = true := by
    rw [Bool.not_eq_true', ← Bool.not_eq_true, Bool.and_eq_true]
    exact hw
  simp only [decode, h, hw', if_true]

/-- R8 row 3: a Sink takes all but the exclusive requests. -/
theorem decode_sink (h : lookup a s = some i)
    (hw : hasAgent (peek (activeEntries s) i).agents agent = true ∧ hasRights (peek (activeEntries s) i) kind = true)
    (ht : (peek (activeEntries s) i).target = .sink) :
    decode kind agent a length s = if isExclusive kind then .misuse i .sink else .sink := by
  simp only [decode, h, hw.1, hw.2, ht, Bool.and_self, Bool.not_true, Bool.false_eq_true, if_false]

/-- R8 rows 4 to 7: a port out of service loses the request; one in service goes on to the checks of its units. -/
theorem decode_port {p : Port} (h : lookup a s = some i)
    (hw : hasAgent (peek (activeEntries s) i).agents agent = true ∧ hasRights (peek (activeEntries s) i) kind = true)
    (ht : (peek (activeEntries s) i).target = .port p) :
    decode kind agent a length s =
      if portInService p s then decodeAtPort kind agent (decodeRecord i p a length s) s else .portLost p := by
  simp only [decode, h, hw.1, hw.2, ht, Bool.and_self, Bool.not_true, Bool.false_eq_true, if_false]

end Rows

/-- R8 row 6, R96: a read that a VALID buffer of its block may answer. -/
theorem checkBuffer_hit {r : DecodeRecord} {s : State} {b : BufferId} {block : List Byte} (hc : r.cls = .relaxed)
    (hp : r.prefetchable = true) (hb : findValid (keyOf r.port r.address) s = some (b, block)) :
    checkBuffer r s = .hit b (sliceOf block r.address r.length) := by
  simp [checkBuffer, hc, hp, hb]

theorem checkBuffer_work {r : DecodeRecord} {s : State}
    (h : r.cls ≠ .relaxed ∨ r.prefetchable = false ∨ findValid (keyOf r.port r.address) s = none) :
    checkBuffer r s = .work r := by
  unfold checkBuffer
  split
  · next hr =>
    rcases h with h | h | h
    · exact absurd hr.1 h
    · rw [h] at hr
      cases hr.2
    · rw [h]
  · rfl

/-- R111: the three outcomes of an exclusive read at row 5. -/
theorem checkExclusiveRead_eq (agent : Agent) (r : DecodeRecord) (s : State) :
    (hasAgent s.broken agent = true → checkExclusiveRead agent r s = .broken) ∧
    (hasAgent s.broken agent ≠ true → sequenceInProgress agent s = true →
      checkExclusiveRead agent r s = .misuse r.window .sequenceInProgress) ∧
    (hasAgent s.broken agent ≠ true → sequenceInProgress agent s ≠ true → checkExclusiveRead agent r s = .work r) := by
  refine ⟨fun hb => ?_, fun hb hq => ?_, fun hb hq => ?_⟩
  · simp [checkExclusiveRead, hb]
  · simp [checkExclusiveRead, hb, hq]
  · simp [checkExclusiveRead, hb, hq]

/-- R114: the five outcomes of an exclusive write at row 5. -/
theorem checkExclusiveWrite_eq (agent : Agent) (r : DecodeRecord) (s : State) :
    (hasAgent s.broken agent = true → checkExclusiveWrite agent r s = .broken) ∧
    (hasAgent s.broken agent ≠ true → holdsPort agent r.port s = true → checkExclusiveWrite agent r s = .work r) ∧
    (hasAgent s.broken agent ≠ true → holdsPort agent r.port s ≠ true → ownsPort agent r.port s = true →
      checkExclusiveWrite agent r s = .misuse r.window .notHeld) ∧
    (hasAgent s.broken agent ≠ true → holdsPort agent r.port s ≠ true → ownsPort agent r.port s ≠ true →
      ownsLock agent s = true → checkExclusiveWrite agent r s = .misuse r.window .otherPort) ∧
    (hasAgent s.broken agent ≠ true → holdsPort agent r.port s ≠ true → ownsPort agent r.port s ≠ true →
      ownsLock agent s ≠ true → checkExclusiveWrite agent r s = .misuse r.window .noLock) := by
  refine ⟨fun hb => ?_, fun hb hh => ?_, fun hb hh ho => ?_, fun hb hh ho hl => ?_, fun hb hh ho hl => ?_⟩
  · simp [checkExclusiveWrite, hb]
  · simp [checkExclusiveWrite, hb, hh]
  · simp [checkExclusiveWrite, hb, hh, ho]
  · simp [checkExclusiveWrite, hb, hh, ho, hl]
  · simp [checkExclusiveWrite, hb, hh, ho, hl]

/-- Settles O12: the rows in their order, row 5 and row 6 by the checks of their units. -/
theorem decodeFollowsTheTable : Obligations.DecodeFollowsTheTable := by
  unfold Obligations.DecodeFollowsTheTable
  refine ⟨fun kind agent a length s => ⟨decode_unmapped, fun i hi => ?_⟩, portInService_iff⟩
  intro w passes exclusive broken holds owns inSequence
  have hpasses : passes ↔ hasAgent (peek (activeEntries s) i).agents agent = true ∧
      hasRights (peek (activeEntries s) i) kind = true := by
    rw [hasRights_iff]
    exact Iff.rfl
  refine ⟨fun h => decode_refused hi (fun hw => h (hpasses.2 hw)), fun h ht => ?_, fun p h ht hs => ?_, fun p h ht hs => ?_⟩
  · have hd := decode_sink (length := length) hi (hpasses.1 h) ht
    refine ⟨fun he => ?_, fun he => ?_⟩
    · rw [hd, if_pos ((isExclusive_iff kind).2 he)]
    · rw [hd, if_neg (fun hx => he ((isExclusive_iff kind).1 hx))]
  · rw [decode_port hi (hpasses.1 h) ht, hs, if_neg (by decide)]
  · intro r buffered
    have hd : decode kind agent a length s = decodeAtPort kind agent r s := by
      rw [decode_port hi (hpasses.1 h) ht, hs, if_pos rfl]
      rfl
    have hholds : ∀ q, holdsPort agent q s = true ↔ holds q := fun q => holdsPort_iff agent q s
    have howns : ∀ q, ownsPort agent q s = true ↔ owns q := fun q => ownsPort_iff agent q s
    have hlock : ownsLock agent s = true ↔ ∃ q, owns q := ownsLock_iff agent s
    have hseq : sequenceInProgress agent s = true ↔ inSequence := sequenceInProgress_iff agent s
    rw [hd]
    refine ⟨?_, ?_, ?_, ?_⟩
    · rintro (rfl | rfl) <;> rfl
    · rintro rfl
      exact ⟨fun b block hc hp hb => checkBuffer_hit hc hp hb, fun h => checkBuffer_work h⟩
    · rintro rfl
      obtain ⟨hbroken, hmisuse, hwork⟩ := checkExclusiveRead_eq agent r s
      exact ⟨hbroken, fun hb hq => hmisuse hb (hseq.2 hq), fun hb hq => hwork hb (fun hx => hq (hseq.1 hx))⟩
    · rintro rfl
      obtain ⟨hbroken, hwork, hnotHeld, hother, hnone⟩ := checkExclusiveWrite_eq agent r s
      have hnotHolds : ∀ {q}, ¬ owns q → holdsPort agent q s ≠ true := fun ho hh => ho (.inl ((hholds _).1 hh))
      have hnotOwns : ∀ {q}, ¬ owns q → ownsPort agent q s ≠ true := fun ho hx => ho ((howns _).1 hx)
      exact ⟨hbroken, fun hb hh => hwork hb ((hholds _).2 hh),
        fun hb hh ho => hnotHeld hb (fun hx => hh ((hholds _).1 hx)) ((howns _).2 ho),
        fun hb ho hl => hother hb (hnotHolds ho) (hnotOwns ho) (hlock.2 hl),
        fun hb ho => hnone hb (hnotHolds (ho p)) (hnotOwns (ho p)) (fun hl => (hlock.1 hl).elim ho)⟩

end Sys2Proof.Machine
end

section
/-! PROOFS. The cold-reset state (00_scope.md, Resets), and the laws it meets. -/

namespace Sys2Proof.Machine

/-! ## The tables after a cold reset -/

theorem reset_pwqs (p : Port) : peek State.reset.pwqs p = { entries := [], nextSeq := 0 } := peek_replicate _ p

theorem reset_slots (i : SlotId) : peek State.reset.slots i = { epoch := 0, use := none } := peek_replicate _ i

theorem reset_slotUse (i : SlotId) : slotUse State.reset i = none := congrArg Slot.use (reset_slots i)

theorem reset_buffers (b : BufferId) : peek State.reset.buffers b = .free := peek_replicate _ b

theorem reset_locks (p : Port) : peek State.reset.locks p = .opened := peek_replicate _ p

theorem reset_ports (p : Port) : peek State.reset.ports p = PortRecord.reset := peek_replicate _ p

theorem reset_vectors (v : VectorId) : peek State.reset.vectors v = VectorEntry.reset (decide (v = 0)) := by
  have htable : State.reset.vectors = poke (Vector.replicate 64 (VectorEntry.reset false)) 0 (VectorEntry.reset true) := rfl
  rw [htable, peek_poke, peek_replicate]
  by_cases h : v = 0
  · simp [h]
  · rw [if_neg (Ne.symm h), decide_eq_false h]

/-- Settles O3. -/
theorem coldResetReturnsEveryBlock : Obligations.ColdResetReturnsEveryBlock := by
  unfold Obligations.ColdResetReturnsEveryBlock
  refine ⟨fun s => rfl, rfl, rfl, rfl, rfl, fun i => ⟨peek_replicate _ i, peek_replicate _ i⟩, fun g => peek_replicate _ g,
    fun i => peek_replicate _ i, rfl, rfl, rfl, rfl, rfl, rfl, fun p => by simp [reset_pwqs], reset_slots,
    fun p => peek_replicate _ p, rfl, rfl, reset_buffers, rfl, fun p => ⟨reset_locks p, peek_replicate _ p⟩, rfl, rfl,
    reset_ports, reset_vectors, rfl, fun a => peek_replicate _ a, rfl, rfl, rfl, rfl, rfl⟩

/-! ## The laws after a cold reset -/

/-- R27, R40, R176. -/
theorem reset_withinCapacities : WithinCapacities State.reset := by
  refine ⟨Nat.zero_le _, Nat.zero_le _, Nat.zero_le _, fun p => ?_, Nat.zero_le _⟩
  rw [reset_pwqs]
  exact Nat.zero_le _

/-- R70, R119, R169. -/
theorem reset_settingsInRange : SettingsInRange State.reset := by
  refine ⟨?_, ?_, ?_⟩ <;> decide

/-- R130: every port is Disabled, with no grant and no credit. -/
theorem reset_creditsWithinGrants : CreditsWithinGrants State.reset := by
  intro p
  rw [reset_ports]
  exact ⟨Nat.le_refl 0, Nat.le_refl 0, rfl, rfl⟩

theorem reset_locksInService : LocksInService State.reset := fun p h => absurd (reset_locks p) h

theorem reset_queuesInOrder : QueuesInOrder State.reset := by
  intro p
  rw [reset_pwqs]
  exact ⟨⟨[], [], rfl, by simp, by simp⟩, fun _ => rfl⟩

theorem reset_liveKey (b : BufferId) (k : BufferKey) : liveKey (peek State.reset.buffers b) ≠ some k := by
  rw [reset_buffers]
  exact nofun

theorem reset_lruExact : LruExact State.reset := by
  refine ⟨List.nodup_nil, fun b => ?_, fun i u b hu => ?_⟩
  · rw [reset_buffers]
    exact ⟨fun h => absurd h List.not_mem_nil, nofun⟩
  · rw [reset_slotUse] at hu
    cases hu

theorem reset_vector_idle (v : VectorId) : (peek State.reset.vectors v).state = .idle := by
  rw [reset_vectors]
  rfl

theorem reset_serviceCountsExact : ServiceCountsExact State.reset := by
  refine ⟨fun a => ?_, fun v h => ?_⟩
  · have hcount : State.reset.vectors.toList.countP (servedBy a) = 0 := by
      refine List.countP_eq_zero.2 (fun e he => ?_)
      obtain ⟨v, hv, rfl⟩ := List.mem_iff_getElem.1 he
      have hidle := reset_vector_idle ⟨v, by simpa using hv⟩
      simp only [peek] at hidle
      simp [servedBy, hidle]
    rw [hcount]
    exact peek_replicate _ a
  · rw [reset_vectors] at h
    cases h

theorem reset_pendingBlocked : PendingBlocked State.reset := by
  intro v h
  rw [reset_vector_idle] at h
  cases h

/-- Settles O52. -/
theorem resetStateIsSafe : Obligations.ResetStateIsSafe := by
  unfold Obligations.ResetStateIsSafe
  exact ⟨reset_withinCapacities, reset_settingsInRange, reset_creditsWithinGrants, reset_locksInService, reset_queuesInOrder,
    reset_countsExact, fun b _ k h => absurd h (reset_liveKey b k), fun b k h => absurd h (reset_liveKey b k), reset_lruExact,
    reset_serviceCountsExact, reset_pendingBlocked⟩

end Sys2Proof.Machine
end

section
/-! PROOFS. What a decode does with a request (R5, R7, R34, R42, R57), and what the answer of a slot does (R12, R17, R69). -/

namespace Sys2Proof.Machine

/-! ## Posted writes -/

/-- Settles O15: each outcome is a case of `takePosted`; the withdrawal is `withdrawBlock_eq`. -/
theorem postedWriteOutcomes : Obligations.PostedWriteOutcomes := by
  unfold Obligations.PostedWriteOutcomes
  exact ⟨fun e s => ⟨rfl, fun w => rfl, rfl, fun p => rfl, fun r => rfl⟩, withdrawBlock_eq⟩

/-! ## Answers at decode -/

/-- R7: the data of a read that a Sink absorbs. -/
theorem sinkData_eq (k : SlotKind) (n : Nat) :
    sinkData k n = if k = .read ∨ k = .exclusiveRead then List.replicate n (0 : Byte) else [] := by
  cases k <;> simp [sinkData, returnsData]

/-- Settles O17: the bytes of a failed read and of a Sink's read are `failData_eq` and `sinkData_eq`. -/
theorem answersAtDecode : Obligations.AnswersAtDecode := by
  unfold Obligations.AnswersAtDecode
  refine ⟨⟨rfl, rfl, rfl, rfl⟩, fun e k a n data s => ?_⟩
  intro filled answered
  have hfail : failData k n = filled 0xFF := failData_eq k n
  have hsink : sinkData k n = filled 0 := sinkData_eq k n
  simp only [takeAccess, hfail, hsink]
  exact ⟨rfl, fun w => rfl, rfl, fun p => rfl, fun w c => rfl, rfl, fun b block => rfl⟩

/-! ## Allocation -/

theorem lowestFree_eq_some_iff (s : State) (i : SlotId) :
    lowestFree s = some i ↔ slotUse s i = none ∧ ∀ j, j < i → slotUse s j ≠ none := by
  rw [lowestFree, allSlots, find?_finRange_eq_some, Option.isNone_iff_eq_none]
  refine and_congr Iff.rfl (forall_congr' fun j => imp_congr_right fun _ => ?_)
  rw [← Bool.not_eq_true, Option.isNone_iff_eq_none]

theorem isWrite_iff (k : SlotKind) : isWrite k = true ↔ k = .nonPostedWrite ∨ k = .exclusiveWrite := by
  cases k <;> simp [isWrite]

theorem returnsData_iff (k : SlotKind) : returnsData k = true ↔ k = .read ∨ k = .exclusiveRead := by
  cases k <;> simp [returnsData]

/-- R57, on the slot that the search gives. -/
theorem allocate_eq {e : NonPostedEntry} {k : SlotKind} {data : List Byte} {r : DecodeRecord} {s : State} {i : SlotId}
    (h : lowestFree s = some i) :
    allocate e k data r s =
      firstState i (allocatedUse e k data r s)
        (signalWrite k r (countUp r.generation
          { s with
            slots := poke s.slots i
              { epoch := (peek s.slots i).epoch + 1, use := some (allocatedUse e k data r s) } })) := by
  simp only [allocate, h]

/-- Settles O19. -/
theorem allocationGivesTheLowestFreeSlot : Obligations.AllocationGivesTheLowestFreeSlot := by
  unfold Obligations.AllocationGivesTheLowestFreeSlot
  intro e k a n data r i s hfree hbelow u given
  have hu : allocatedUse e k data r s = u := by
    simp only [allocatedUse, returnsData_iff]
    rfl
  have htake : takeAccess e k a n data (.work r) s = allocate e k data r s := rfl
  rw [htake, allocate_eq ((lowestFree_eq_some_iff s i).2 ⟨hfree, hbelow⟩), hu]
  simp only [signalWrite, isWrite_iff]
  rfl

/-! ## The end of a drain (R17, R19) -/

/-- A drain that has ended: the staged bank is the copy, and the commit is answered Done unless it is suppressed. -/
def drainEnded (d : DrainRecord) (s : State) : State :=
  { s with
    drain := none
    bankA := activeEntries s
    bankB := activeEntries s
    egress := if d.suppressed = true then s.egress else
      s.egress ++ [.completion { agent := d.agent, tag := d.tag, status := .done, data := [], words := [] }]
    ids := if d.suppressed = true then s.ids else poke s.ids (idIndex d.agent d.tag) false }

theorem copyActiveBank_eq (s : State) :
    copyActiveBank s = { s with bankA := activeEntries s, bankB := activeEntries s } := by
  unfold copyActiveBank activeEntries
  cases h : s.activeBank <;> rfl

theorem endDrain_eq {d : DrainRecord} {s : State} (h : s.drain = some d) : endDrain s = drainEnded d s := by
  unfold endDrain drainEnded
  rw [h, copyActiveBank_eq]
  cases hd : d.suppressed <;> simp only [hd] <;> rfl

theorem endDrainIfDone_none {s : State} (h : s.drain = none) : endDrainIfDone s = s := by
  simp only [endDrainIfDone, h]

theorem endDrainIfDone_running {d : DrainRecord} {s : State} (h : s.drain = some d)
    (hc : peek s.counts (genIndex d.generation) ≠ 0) : endDrainIfDone s = s := by
  have hc' : countOf d.generation s ≠ 0 := hc
  simp only [endDrainIfDone, h, hc', if_false]

theorem endDrainIfDone_done {d : DrainRecord} {s : State} (h : s.drain = some d)
    (hc : peek s.counts (genIndex d.generation) = 0) : endDrainIfDone s = drainEnded d s := by
  have hc' : countOf d.generation s = 0 := hc
  simp only [endDrainIfDone, h, hc', if_true]
  exact endDrain_eq h

/-! ## A count that falls (R12, R17) -/

/-- A state with the count of a generation lowered by one. -/
def countFallen (g : Generation) (s : State) : State :=
  { s with counts := poke s.counts (genIndex g) (peek s.counts (genIndex g) - 1) }

theorem countDown_noDrain {g : Generation} {s : State} (h : s.drain = none) : countDown g s = countFallen g s := by
  simp only [countDown, countFallen, countOf, h]

theorem countDown_otherGeneration {g : Generation} {d : DrainRecord} {s : State} (h : s.drain = some d)
    (hg : d.generation ≠ g) : countDown g s = countFallen g s := by
  simp only [countDown, countFallen, countOf, h, hg, if_false]

theorem countDown_drained {g : Generation} {d : DrainRecord} {s : State} (h : s.drain = some d)
    (hg : d.generation = g) : countDown g s = endDrainIfDone (countFallen g s) := by
  simp only [countDown, countFallen, countOf, h, hg, if_true]

theorem countFallen_count (g : Generation) (s : State) :
    peek (countFallen g s).counts (genIndex g) = peek s.counts (genIndex g) - 1 := peek_poke_same _ _ _

theorem countDown_goesOn {g : Generation} {s : State}
    (h : ∀ d, s.drain = some d → ¬ (d.generation = g ∧ peek s.counts (genIndex g) ≤ 1)) :
    countDown g s = countFallen g s := by
  cases hd : s.drain with
  | none => exact countDown_noDrain hd
  | some d =>
    by_cases hg : d.generation = g
    · rw [countDown_drained hd hg]
      refine endDrainIfDone_running (s := countFallen g s) hd ?_
      have hlarge : ¬ peek s.counts (genIndex g) ≤ 1 := fun hle => h d hd ⟨hg, hle⟩
      rw [hg, countFallen_count]
      omega
    · exact countDown_otherGeneration hd hg

theorem countDown_ends {g : Generation} {d : DrainRecord} {s : State} (hd : s.drain = some d)
    (h : d.generation = g ∧ peek s.counts (genIndex g) ≤ 1) : countDown g s = drainEnded d (countFallen g s) := by
  obtain ⟨hg, hle⟩ := h
  rw [countDown_drained hd hg]
  refine endDrainIfDone_done (s := countFallen g s) hd ?_
  rw [hg, countFallen_count]
  omega

/-! ## The answer of a slot (R69) -/

theorem freeSlot_unused {i : SlotId} {s : State} (h : slotUse s i = none) : freeSlot i s = s := by
  simp only [freeSlot, h]

theorem answerSlot_unused {i : SlotId} {st : Status} {data : List Byte} {s : State} (h : slotUse s i = none) :
    answerSlot i st data s = s := by
  simp only [answerSlot, h]

theorem freeSlot_used {i : SlotId} {u : SlotUse} {s : State} (h : slotUse s i = some u) :
    freeSlot i s = countDown u.generation (putUse i none s) := by
  simp only [freeSlot, h]

/-- A state with the completion of a slot's request appended, unless the slot is muted. -/
theorem reply_eq (u : SlotUse) (st : Status) (data : List Byte) (s : State) :
    reply u st data s =
      { s with
        egress := if u.mute = true then s.egress else
          s.egress ++ [.completion { agent := u.agent, tag := u.tag, status := st, data, words := [] }]
        ids := if u.mute = true then s.ids else poke s.ids (idIndex u.agent u.tag) false } := by
  unfold reply
  cases u.mute <;> rfl

theorem answerSlot_used {i : SlotId} {u : SlotUse} {st : Status} {data : List Byte} {s : State} (h : slotUse s i = some u) :
    answerSlot i st data s = countDown u.generation (putUse i none (reply u st data s)) := by
  have hr : slotUse (reply u st data s) i = some u := by rw [slotUse_reply, h]
  simp only [answerSlot, h, freeSlot_used hr]

/-- Settles O33. -/
theorem answeredSlotIsFree : Obligations.AnsweredSlotIsFree := by
  unfold Obligations.AnsweredSlotIsFree
  refine ⟨fun c s => rfl, fun u st data s => rfl, fun i st data s => ⟨fun h => ?_, fun u h => ⟨?_, ?_⟩⟩, fun g s => ⟨?_, ?_⟩⟩
  · exact ⟨freeSlot_unused h, answerSlot_unused h⟩
  · exact freeSlot_used h
  · rw [answerSlot_used h, reply_eq]
    rfl
  · exact countDown_goesOn
  · exact fun d hd h => countDown_ends hd h

end Sys2Proof.Machine
end

section
/-! PROOFS. The head of the posted intake and the test of the fence-waiting order (R10, R29, R80, R83). -/

namespace Sys2Proof.Machine

/-! ## The head of the posted intake (R29) -/

/-- The take of a posted write leaves the intake as it is. -/
theorem takePosted_postedIntake (e : PostedEntry) (d : Decoded) (s : State) :
    (takePosted e d s).postedIntake = s.postedIntake := by
  cases d with
  | unmapped =>
    simp only [takePosted]
    split
    · exact storeRecord_postedIntake _ s
    · rfl
  | refused w => exact storeRecord_postedIntake _ s
  | portLost p => exact storeRecord_postedIntake _ s
  | sink => rfl
  | misuse w c => rfl
  | broken => rfl
  | hit b block => rfl
  | work r => rfl

theorem lookUpHead_empty {s : State} (h : s.postedIntake = []) : lookUpHead s = s := by
  rw [lookUpHead, h]
  rfl

theorem lookUpHead_stays {e : PostedEntry} {rest : List PostedEntry} {s : State} (h : s.postedIntake = e :: rest)
    (hd : letsHeadLeave (decode .posted e.agent e.address e.length s) s ≠ true) : lookUpHead s = s := by
  rw [lookUpHead, h, exitPostedHeads]
  simp only [hd, Bool.false_eq_true, if_false]

/-- R29: a head that leaves is taken, its credit is returned, and the next head is looked up. -/
theorem lookUpHead_leaves {e : PostedEntry} {rest : List PostedEntry} {s : State} (h : s.postedIntake = e :: rest)
    (hd : letsHeadLeave (decode .posted e.agent e.address e.length s) s = true) :
    lookUpHead s = lookUpHead (appendEgress (.creditReturn .posted)
      (takePosted e (decode .posted e.agent e.address e.length s) { s with postedIntake := rest })) := by
  have hrest := takePosted_postedIntake e (decode .posted e.agent e.address e.length s) { s with postedIntake := rest }
  rw [lookUpHead, lookUpHead, h, exitPostedHeads, appendEgress_postedIntake, hrest]
  simp only [hd, if_true]

theorem exitHeadsAndTest_stays {s : State} (h : lookUpHead s = s) : exitHeadsAndTest s = s := by
  simp only [exitHeadsAndTest, h, if_true]

/-- R83: the fences are tested once a head has left. -/
theorem exitHeadsAndTest_leaves {e : PostedEntry} {rest : List PostedEntry} {s : State} (h : s.postedIntake = e :: rest)
    (hd : letsHeadLeave (decode .posted e.agent e.address e.length s) s = true) :
    exitHeadsAndTest s = testFences [] (lookUpHead s) := by
  have hshrinks : (lookUpHead s).postedIntake.length ≤ rest.length := by
    rw [lookUpHead_leaves h hd, lookUpHead]
    refine Nat.le_trans (exitPostedHeads_length _ _ rfl) (Nat.le_of_eq ?_)
    rw [appendEgress_postedIntake, takePosted_postedIntake]
  have hlonger : s.postedIntake.length = rest.length + 1 := by rw [h, List.length_cons]
  have hleft : (lookUpHead s).postedIntake.length ≠ s.postedIntake.length := by omega
  simp only [exitHeadsAndTest, hleft, if_false]

theorem exec_postedIntakeExit (s : State) :
    exec .postedIntakeExit s = .next (raiseOnFirstRecord s (exitHeadsAndTest s)) := rfl

/-- A posted intake that no head leaves: nothing changes (log 2). -/
theorem exec_postedIntakeExit_stays {s : State} (h : lookUpHead s = s) :
    lookUpHead s = s ∧ exitHeadsAndTest s = s ∧ exec .postedIntakeExit s = .next s := by
  have hexit := exitHeadsAndTest_stays h
  refine ⟨h, hexit, ?_⟩
  rw [exec_postedIntakeExit, hexit, raiseOnFirstRecord_same rfl]

/-! ## The test of the fence-waiting order (R80, R83) -/

/-- R80: `a` is not earlier than `b`. -/
theorem not_earlier_eq (a b : Arrival) : (!earlier a b) = decide ((b - a).toInt ≤ 0) := by
  rw [earlier, ← decide_not]
  exact decide_eq_decide.2 Int.not_lt

/-- R80, as one test of the intake and of the four queues. -/
theorem fenceClear_eq (u : SlotUse) (s : State) :
    fenceClear u s =
      (s.postedIntake.all (fun e => decide ((u.arrival - e.arrival).toInt ≤ 0)) &&
        (List.finRange 4).all (fun p => (peek s.pwqs p).entries.all (fun e =>
          decide (e.domain ≠ u.domain ∨ (u.arrival - e.arrival).toInt ≤ 0)))) := by
  have hentry : ∀ e : QueueEntry, (!(decide (e.domain = u.domain) && earlier e.arrival u.arrival)) =
      decide (e.domain ≠ u.domain ∨ (u.arrival - e.arrival).toInt ≤ 0) := by
    intro e
    rw [Bool.not_and, not_earlier_eq, ← decide_not, ← Bool.decide_or]
  simp only [fenceClear, not_earlier_eq, hentry]
  rfl

theorem testFences_eq (others : List SlotId) (s : State) {clear : SlotId → Bool} (h : ∀ i, fenceReleases s i = clear i) :
    testFences others s =
      (mergeByArrival (arrivalOf s) others (s.fenceOrder.filter clear)).foldl (fun t i => takeTurn i t)
        { s with fenceOrder := s.fenceOrder.filter (fun i => !clear i) } := by
  have hclear : fenceReleases s = clear := funext h
  rw [testFences, hclear]

/-- R59, R83: a slot awaits its turn once it has left the order that held it. -/
theorem awaitsTurn_iff {i : SlotId} {u : SlotUse} {s : State} (h : slotUse s i = some u) :
    awaitsTurn i s = true ↔
      (u.state = .fenceWait ∧ i ∉ s.fenceOrder) ∨ (u.state = .lockWait ∧ i ∉ peek s.waiting u.port) := by
  cases hst : u.state <;> simp [awaitsTurn, h, hst]

theorem lostAtReadyPoint_iff (u : SlotUse) (s : State) :
    lostAtReadyPoint u s = true ↔ portInService u.port s = false ∨ u.exited = true := by
  simp [lostAtReadyPoint]

/-- Settles O14. -/
theorem postedHeadLeavesOrStays : Obligations.PostedHeadLeavesOrStays := by
  unfold Obligations.PostedHeadLeavesOrStays
  refine ⟨fun s h => exec_postedIntakeExit_stays (lookUpHead_empty h), fun e rest s h => ?_, fun others s => ?_,
    fun i s => ⟨fun h => ?_, fun u h => ?_⟩⟩
  · intro d taken
    refine ⟨fun ⟨r, hr, hfull⟩ => ?_, fun hroom => ?_⟩
    · refine exec_postedIntakeExit_stays (lookUpHead_stays h (fun hl => ?_))
      have := (letsHeadLeave_iff _ s).1 hl r hr
      omega
    · have hl := (letsHeadLeave_iff d s).2 hroom
      exact ⟨lookUpHead_leaves h hl, exitHeadsAndTest_leaves h hl, exec_postedIntakeExit s⟩
  · intro clear
    refine testFences_eq others s (fun i => ?_)
    unfold clear fenceReleases
    cases slotUse s i with
    | none => rfl
    | some u => exact fenceClear_eq u s
  · simp only [takeTurn, h]
  · intro released lost
    have hreleased : awaitsTurn i s = true ↔ released := awaitsTurn_iff h
    have hlost : lostAtReadyPoint u s = true ↔ lost := lostAtReadyPoint_iff u s
    refine ⟨fun hr hl => ?_, fun hr hl => ?_, fun hr => ?_⟩
    · simp only [takeTurn, h, if_pos (hreleased.2 hr), if_pos (hlost.2 hl)]
    · simp only [takeTurn, h, if_pos (hreleased.2 hr), if_neg (fun hx => hl (hlost.1 hx))]
    · simp only [takeTurn, h, if_neg (fun hx => hr (hreleased.1 hx))]

end Sys2Proof.Machine
end

section
/-! PROOFS. Management requests on the windows, the settings and the commit (R5, R14 to R17, R70, R119, R156, R169). -/

namespace Sys2Proof.Machine

/-! ## The end of a request that passes its checks -/

/-- R163, R164: the current request passes the checks, its operation's rule answers it and stores no record. -/
theorem executionEnd_answered {named : ManagementEntry → Bool} {rule : ManagementEntry → State → Answer} {r : ManagementEntry}
    {op : Operation} {s : State} (hc : s.current = some r) (hn : named r = true) (ho : operationOfCode r.operation = some op)
    (hm : isReadOperation op = true ∨ hasAgent s.managementMask r.agent = true) (hw : r.words.length = operandCount op)
    {st : Status} {words : List Word} {t : State}
    (ha : rule r { s with current := none } = { after := t, status := st, words := words })
    (hr : t.records = s.records) :
    executionEnd named rule s =
      .next (appendCompletion { agent := r.agent, tag := r.tag, status := st, data := [], words := words } t) := by
  rw [executionEnd_named hc hn, endRequest_passes ho hm hw, ha, raiseOnFirstRecord_same hr]

/-! ## Registers (R168) -/

section Registers

variable {r : ManagementEntry} {w : Word} {s : State}

theorem writesRegister_of {n : Nat} (ho : r.operation = 1) (hi : r.index.toNat = n) : writesRegister n r = true := by
  simp [writesRegister, hasOperation, operationOfCode, ho, hi]

/-- R168: a write of a register by an agent of the mask is answered by the register's own rule. -/
theorem registerWrite_answered {n : Nat} {rule : ManagementEntry → State → Answer} (hc : s.current = some r)
    (ho : r.operation = 1) (hw : r.words = [w]) (hm : hasAgent s.managementMask r.agent = true) (hi : r.index.toNat = n)
    {st : Status} {t : State} (ha : rule r { s with current := none } = { after := t, status := st, words := [] })
    (hr : t.records = s.records) :
    executionEnd (writesRegister n) rule s =
      .next (appendCompletion { agent := r.agent, tag := r.tag, status := st, data := [], words := [] } t) :=
  executionEnd_answered (op := .writeRegister) hc (writesRegister_of ho hi) (by simp [operationOfCode, ho]) (.inr hm)
    (by simp [hw, operandCount]) ha hr

theorem valueWord_single (hw : r.words = [w]) : valueWord r = w := by rw [valueWord, hw]; rfl

theorem writeMaskRule_eq (hw : r.words = [w]) (t : State) :
    writeMaskRule r t =
      if w.extractLsb' 0 8 = 0 then answerInvalid t else answerDone { t with managementMask := w.extractLsb' 0 8 } := by
  rw [writeMaskRule, valueWord_single hw]
  rfl

theorem writeTimeoutRule_eq (hw : r.words = [w]) (t : State) :
    writeTimeoutRule r t =
      if w.extractLsb' 0 12 = 0 then answerInvalid t else answerDone { t with timeout := w.extractLsb' 0 12 } := by
  rw [writeTimeoutRule, valueWord_single hw]
  rfl

theorem writeHoldRule_eq (hw : r.words = [w]) (t : State) :
    writeHoldRule r t =
      if w.extractLsb' 0 12 = 0 then answerInvalid t else answerDone { t with holdLimit := w.extractLsb' 0 12 } := by
  rw [writeHoldRule, valueWord_single hw]
  rfl

theorem writeMissRule_eq (hw : r.words = [w]) (t : State) :
    writeMissRule r t = answerDone { t with missRecords := w.getLsbD 0 } := by
  rw [writeMissRule, valueWord_single hw]

theorem writeMasksRule_eq (hw : r.words = [w]) (t : State) :
    writeMasksRule r t = answerDone (resteer { t with agentMasks := w.extractLsb' 0 8 }) := by
  rw [writeMasksRule, valueWord_single hw]
  rfl

end Registers

/-- Settles O43: each register's rule on the word carried, by its range where it has one. -/
theorem registerWritesTakeTheirValues : Obligations.RegisterWritesTakeTheirValues := by
  unfold Obligations.RegisterWritesTakeTheirValues
  intro r w s hc ho hw hm idle answered
  have hnumber : ∀ n : BitVec 6, r.index = n → r.index.toNat = n.toNat := fun n h => by rw [h]
  refine ⟨fun hi => ?_, fun hi => ?_, fun hi => ?_, fun hi => ?_, fun hi => ?_⟩
  · split
    · next h => exact registerWrite_answered hc ho hw hm (hnumber 1 hi) (by rw [writeMaskRule_eq hw, if_pos h]; rfl) rfl
    · next h => exact registerWrite_answered hc ho hw hm (hnumber 1 hi) (by rw [writeMaskRule_eq hw, if_neg h]; rfl) rfl
  · exact registerWrite_answered hc ho hw hm (hnumber 2 hi) (by rw [writeMissRule_eq hw]; rfl) rfl
  · split
    · next h => exact registerWrite_answered hc ho hw hm (hnumber 3 hi) (by rw [writeTimeoutRule_eq hw, if_pos h]; rfl) rfl
    · next h => exact registerWrite_answered hc ho hw hm (hnumber 3 hi) (by rw [writeTimeoutRule_eq hw, if_neg h]; rfl) rfl
  · split
    · next h => exact registerWrite_answered hc ho hw hm (hnumber 4 hi) (by rw [writeHoldRule_eq hw, if_pos h]; rfl) rfl
    · next h => exact registerWrite_answered hc ho hw hm (hnumber 4 hi) (by rw [writeHoldRule_eq hw, if_neg h]; rfl) rfl
  · exact registerWrite_answered hc ho hw hm (hnumber 5 hi) (by rw [writeMasksRule_eq hw, answerDone]) (resteer_frame _).records

/-! ## Windows (R14, R15) -/

theorem windowOfIndex_none {i : BitVec 6} (h : 32 ≤ i.toNat) : windowOfIndex i = none := by
  rw [windowOfIndex, dif_neg (by omega)]

theorem windowOfIndex_of {index : BitVec 6} {i : WindowId} (h : index = BitVec.ofNat 6 i.val) :
    windowOfIndex index = some i := by
  rw [h, windowOfIndex_ofNat]

section Windows

variable {r : ManagementEntry} {s : State}

theorem windowOfRequest_four {w0 w1 w2 w3 : Word} (hw : r.words = [w0, w1, w2, w3]) :
    windowOfRequest r = windowOfWords w0 w1 w2 w3 := by
  rw [windowOfRequest, hw]

theorem stageWindowRule_busy (h : s.drain ≠ none) :
    stageWindowRule r s = { after := s, status := .busy, words := [] } := by
  rw [stageWindowRule, if_pos (Option.isSome_iff_ne_none.2 h)]

theorem stageWindowRule_unread (h : s.drain = none) (hw : windowOfIndex r.index = none ∨ windowOfRequest r = none) :
    stageWindowRule r s = answerInvalid s := by
  rw [stageWindowRule, h, if_neg (by simp)]
  rcases hw with hw | hw
  · rw [hw]
  · rw [hw]
    cases windowOfIndex r.index <;> rfl

/-- R14: an entry whose index and target are in bounds, judged by its range. -/
theorem stageWindowRule_read {i : WindowId} {w : WindowEntry} (h : s.drain = none) (hi : windowOfIndex r.index = some i)
    (hw : windowOfRequest r = some w) :
    stageWindowRule r s = if w.limit < w.base then answerInvalid s else answerDone (stageEntry i w s) := by
  rw [stageWindowRule, h, if_neg (by simp), hi, hw]

theorem stageEntry_a (i : WindowId) (w : WindowEntry) (h : s.activeBank = .a) :
    stageEntry i w s = { s with bankB := poke s.bankB i w } := by
  simp only [stageEntry, h]

theorem stageEntry_b (i : WindowId) (w : WindowEntry) (h : s.activeBank = .b) :
    stageEntry i w s = { s with bankA := poke s.bankA i w } := by
  simp only [stageEntry, h]

/-- R14: a STAGE WINDOW with its four words, by an agent of the mask, is answered by its rule. -/
theorem stageWindow_answered {w0 w1 w2 w3 : Word} (hc : s.current = some r) (ho : r.operation = 2)
    (hw : r.words = [w0, w1, w2, w3]) (hm : hasAgent s.managementMask r.agent = true) {st : Status} {t : State}
    (ha : stageWindowRule r { s with current := none } = { after := t, status := st, words := [] })
    (hr : t.records = s.records) :
    exec .stageWindow s =
      .next (appendCompletion { agent := r.agent, tag := r.tag, status := st, data := [], words := [] } t) :=
  executionEnd_answered (op := .stageWindow) hc (by simp [hasOperation, operationOfCode, ho]) (by simp [operationOfCode, ho])
    (.inr hm) (by simp [hw, operandCount]) ha hr

/-- R15: a READ WINDOW with its one word, by any agent, is answered by its rule. -/
theorem readWindow_answered {w : Word} (hc : s.current = some r) (ho : r.operation = 3) (hw : r.words = [w]) {st : Status}
    {words : List Word}
    (ha : readWindowRule r { s with current := none } =
      { after := { s with current := none }, status := st, words := words }) :
    exec .readWindow s =
      .next (appendCompletion { agent := r.agent, tag := r.tag, status := st, data := [], words := words }
        { s with current := none }) :=
  executionEnd_answered (op := .readWindow) hc (by simp [hasOperation, operationOfCode, ho]) (by simp [operationOfCode, ho])
    (.inl rfl) (by simp [hw, operandCount]) ha rfl

theorem readWindowRule_read {i : WindowId} {bank : BankName} (hi : windowOfIndex r.index = some i)
    (hb : bankOfCode (valueWord r) = some bank) :
    readWindowRule r s = { after := s, status := .done, words := windowWords (peek (bankOf bank s) i) } := by
  rw [readWindowRule, hi, hb]

theorem readWindowRule_unread (h : windowOfIndex r.index = none ∨ bankOfCode (valueWord r) = none) :
    readWindowRule r s = answerInvalid s := by
  rw [readWindowRule]
  rcases h with h | h
  · rw [h]
  · rw [h]
    cases windowOfIndex r.index <;> rfl

end Windows

theorem bankOfCode_none {w : Word} (h0 : w ≠ 0) (h1 : w ≠ 1) : bankOfCode w = none := by
  rw [bankOfCode, if_neg h0, if_neg h1]

/-- Settles O47. -/
theorem windowsAreStagedAndReadBack : Obligations.WindowsAreStagedAndReadBack := by
  unfold Obligations.WindowsAreStagedAndReadBack
  intro r s hc answered idle
  refine ⟨fun w0 w1 w2 w3 ho hw hm => ⟨fun hd => ?_, fun hd => ⟨fun h => ?_, fun i w hi hwin => ⟨fun h => ?_, fun h hb => ?_,
    fun h hb => ?_⟩⟩⟩, fun i ho hi => ⟨fun hw => ?_, fun hw => ?_, fun w hw h0 h1 => ?_⟩, fun w ho hi hw => ?_⟩
  · exact stageWindow_answered hc ho hw hm (stageWindowRule_busy (s := idle) hd) rfl
  · have hunread : windowOfIndex r.index = none ∨ windowOfRequest r = none := by
      rw [windowOfRequest_four hw]
      exact h.imp windowOfIndex_none id
    exact stageWindow_answered hc ho hw hm (stageWindowRule_unread (s := idle) hd hunread) rfl
  · refine stageWindow_answered hc ho hw hm ?_ rfl
    rw [stageWindowRule_read (s := idle) hd (windowOfIndex_of hi) ((windowOfRequest_four hw).trans hwin), if_pos h]
    rfl
  · refine stageWindow_answered hc ho hw hm ?_ rfl
    rw [stageWindowRule_read (s := idle) hd (windowOfIndex_of hi) ((windowOfRequest_four hw).trans hwin), if_neg (BitVec.not_lt.2 h),
      stageEntry_a (s := idle) i w hb]
    rfl
  · refine stageWindow_answered hc ho hw hm ?_ rfl
    rw [stageWindowRule_read (s := idle) hd (windowOfIndex_of hi) ((windowOfRequest_four hw).trans hwin), if_neg (BitVec.not_lt.2 h),
      stageEntry_b (s := idle) i w hb]
    rfl
  · exact readWindow_answered hc ho hw (readWindowRule_read (bank := .a) (windowOfIndex_of hi) (by rw [valueWord_single hw]; rfl))
  · exact readWindow_answered hc ho hw (readWindowRule_read (bank := .b) (windowOfIndex_of hi) (by rw [valueWord_single hw]; rfl))
  · exact readWindow_answered hc ho hw
      (readWindowRule_unread (.inr (by rw [valueWord_single hw, bankOfCode_none h0 h1])))
  · exact readWindow_answered hc ho hw (readWindowRule_unread (.inl (windowOfIndex_none hi)))

/-! ## The commit (R16, R17) -/

/-- R16, R105: what a commit's swap changes before the posted intake's head is looked up again. -/
def banksSwapped (s : State) : State :=
  { s with
    activeBank := match s.activeBank with | .a => .b | .b => .a
    generation := s.generation + 1
    buffers := s.buffers.map (fun b =>
      match b with
      | .valid _ _ => .free
      | .filling k l fs => .stale k l fs
      | .stale k l fs => .stale k l fs
      | .free => .free)
    lru := [] }

theorem swapBanks_eq (s : State) : swapBanks s = exitHeadsAndTest (banksSwapped s) := by
  have hbuffers : s.buffers.map withdrawn = (banksSwapped s).buffers := by
    refine table_ext (fun i => ?_)
    rw [banksSwapped, peek_map, peek_map]
    cases peek s.buffers i <;> rfl
  have hstate : withdrawAll { s with activeBank := otherBank s.activeBank, generation := s.generation + 1 } =
      { banksSwapped s with buffers := s.buffers.map withdrawn } := rfl
  rw [swapBanks, hstate, hbuffers]

/-- R16, R17: the drain record of an accepted commit. -/
def commitDrain (r : ManagementEntry) (s : State) : DrainRecord :=
  { generation := s.generation, agent := r.agent, tag := r.tag, suppressed := false }

/-- A commit accepted with no head of the posted intake to leave. -/
def drainStarted (r : ManagementEntry) (s : State) : State :=
  { banksSwapped { s with current := none } with drain := some (commitDrain r s) }

section Commit

variable {r : ManagementEntry} {s : State}

theorem commitPasses_of (hw : r.words = []) (hm : hasAgent s.managementMask r.agent = true) (hd : s.drain = none) :
    commitPasses r s = true := by
  simp [commitPasses, hw, hm, hd]

theorem isCommit_of (ho : r.operation = 4) : hasOperation .commitWindows r = true := by
  simp [hasOperation, operationOfCode, ho]

/-- R16: a commit that passes every check is accepted. -/
theorem commitWindows_accepted (hc : s.current = some r) (ho : r.operation = 4) (hw : r.words = [])
    (hm : hasAgent s.managementMask r.agent = true) (hd : s.drain = none) :
    exec .commitWindows s =
      .next (endDrainIfDone (raiseOnFirstRecord s
        { exitHeadsAndTest (banksSwapped { s with current := none }) with drain := some (commitDrain r s) })) := by
  have hexec : exec .commitWindows s = execCommitWindows s := rfl
  rw [hexec, execCommitWindows, hc]
  dsimp only
  rw [isCommit_of ho, commitPasses_of hw hm hd, Bool.and_self, if_pos rfl, commitAccepted, acceptCommit, swapBanks_eq]
  rfl

/-- R16: during a drain a commit is answered Busy. -/
theorem commitWindows_busy (hc : s.current = some r) (ho : r.operation = 4) (hw : r.words = [])
    (hm : hasAgent s.managementMask r.agent = true) (hd : s.drain ≠ none) :
    exec .commitWindows s =
      .next (appendCompletion { agent := r.agent, tag := r.tag, status := .busy, data := [], words := [] }
        { s with current := none }) := by
  have hexec : exec .commitWindows s = execCommitWindows s := rfl
  have hfails : commitPasses r s = false := by
    cases hs : s.drain with
    | none => exact absurd hs hd
    | some d => simp [commitPasses, hs]
  rw [hexec, execCommitWindows, hc]
  dsimp only
  rw [hfails, Bool.and_false, if_neg (by decide)]
  exact executionEnd_answered (op := .commitWindows) hc (isCommit_of ho) (by simp [operationOfCode, ho]) (.inr hm)
    (by simp [hw, operandCount]) rfl rfl

end Commit

/-- Settles O49: with an empty posted intake no head leaves at the swap, so a count above 0 leaves the drain running. -/
theorem commitSwapsTheBanksAndDrains : Obligations.CommitSwapsTheBanksAndDrains := by
  unfold Obligations.CommitSwapsTheBanksAndDrains
  refine ⟨fun r s hc ho hw hm => ⟨commitWindows_busy hc ho hw hm, fun hd hempty hcount => ?_, fun hd => ?_⟩, fun s =>
    ⟨rfl, endDrainIfDone_none, fun d hd => ⟨endDrainIfDone_running hd, endDrainIfDone_done hd⟩⟩⟩
  · have hstays : exitHeadsAndTest (banksSwapped { s with current := none }) = banksSwapped { s with current := none } :=
      exitHeadsAndTest_stays (lookUpHead_empty hempty)
    have hraise : raiseOnFirstRecord s (drainStarted r s) = drainStarted r s := raiseOnFirstRecord_same rfl
    have hruns : endDrainIfDone (drainStarted r s) = drainStarted r s :=
      endDrainIfDone_running (d := commitDrain r s) rfl hcount
    rw [commitWindows_accepted hc ho hw hm hd, hstays]
    exact congrArg Host.Outcome.next ((congrArg endDrainIfDone hraise).trans hruns)
  · exact commitWindows_accepted hc ho hw hm hd

end Sys2Proof.Machine
end

section
/-! PROOFS. The upstream link reset (R38): its steps one after another, each as the fields it changes. -/

namespace Sys2Proof.Machine

/-! ## Records and locks (R122, R177, R183) -/

/-- The records an upstream link reset makes, in their order: its own, then one for each lock it breaks. -/
def resetBodies (s : State) : List RecordBody :=
  .upstreamReset (identifierCount s) :: allPorts.filterMap (brokenByReset s)

/-- R19: the drain that the reset suppresses. -/
def suppress (d : DrainRecord) : DrainRecord := { d with suppressed := true }

/-- A state after the upstream port's part of a reset, its records and its broken locks. -/
def upstreamCleared (s : State) : State :=
  { s with
    postedIntake := [], nonPostedIntake := [], managementIntake := [], ids := Vector.replicate 256 false, egress := []
    agentCredits := AgentCredits.full, current := none, drain := s.drain.map suppress
    locks := Vector.replicate 4 .opened, waiting := Vector.replicate 4 [], broken := 0
    records := s.records ++
      ((resetBodies s).take (32 - s.records.length)).map (fun b => { time := s.bridgeTime, body := b })
    overflow := s.overflow || decide (32 < s.records.length + (resetBodies s).length) }

/-- R122: every lock is broken, each with its record stored or lost. -/
theorem breakLock_allPorts (s : State) : ∃ br,
    allPorts.foldl (fun s p => breakLock p .upstreamReset s) s =
      { storeRecords (allPorts.filterMap (brokenByReset s)) s with
        locks := Vector.replicate 4 .opened, broken := br } := by
  obtain ⟨br, hbr⟩ := breakLock_foldl allPorts s (List.nodup_finRange 4)
  have hlocks : Vector.ofFn (fun p => if p ∈ allPorts then Lock.opened else peek s.locks p) =
      Vector.replicate 4 .opened := by
    refine table_ext (fun p => ?_)
    have hmem : p ∈ allPorts := List.mem_finRange p
    rw [peek_ofFn, peek_replicate, if_pos hmem]
  rw [hlocks] at hbr
  exact ⟨br, hbr⟩

theorem resetLocks_eq (s : State) :
    resetLocks s =
      { storeRecords (allPorts.filterMap (brokenByReset s)) s with
        locks := Vector.replicate 4 .opened, broken := 0, waiting := Vector.replicate 4 [] } := by
  obtain ⟨br, hbr⟩ := breakLock_allPorts s
  rw [resetLocks, hbr]

theorem brokenByReset_congr {s t : State} (h : t.locks = s.locks) : brokenByReset t = brokenByReset s := by
  funext p
  rw [brokenByReset, brokenByReset, h]

/-- R38, R122, R183: the first half of a reset. -/
theorem resetLocks_storeRecord (s : State) :
    resetLocks (storeRecord (.upstreamReset (identifierCount s)) (resetUpstreamPort s)) = upstreamCleared s := by
  have hbroken : brokenByReset (storeRecord (.upstreamReset (identifierCount s)) (resetUpstreamPort s)) =
      brokenByReset s := brokenByReset_congr (storeRecord_locks _ _)
  have hchain : storeRecords (allPorts.filterMap (brokenByReset s))
      (storeRecord (.upstreamReset (identifierCount s)) (resetUpstreamPort s)) =
        storeRecords (resetBodies s) (resetUpstreamPort s) := rfl
  have hcons : resetBodies s ≠ [] := List.cons_ne_nil _ _
  rw [resetLocks_eq, hbroken, hchain, storeRecords_eq]
  simp only [hcons, ne_eq, not_false_eq_true, true_and]
  rfl

/-! ## The steering unit (R158) -/

/-- R158: a vector entry after a reset; vector 0 is raised if the reset stored the first record. -/
def vectorAfterReset (firstRecord : Prop) [Decidable firstRecord] (v : VectorId) (e : VectorEntry) : VectorEntry :=
  match e.state with
  | .inService _ => { e with state := .pending, again := false }
  | .pending => e
  | .idle => if v = 0 ∧ firstRecord then { e with state := .pending } else e

section VectorAfterReset

variable {first : Prop} [Decidable first]

/-- Every entry but vector 0, and vector 0 as well where the queue held a record before. -/
theorem vectorAfterReset_noRaise {v : VectorId} (h : ¬ (v = 0 ∧ first)) (e : VectorEntry) :
    vectorAfterReset first v e = resetVector e := by
  unfold vectorAfterReset resetVector
  cases e.state with
  | inService a => rfl
  | pending => rfl
  | idle => exact if_neg h

/-- R158: the raise of vector 0 after the InService entries have become Pending. -/
theorem vectorAfterReset_raise (h : first) (e : VectorEntry) :
    vectorAfterReset first 0 e =
      if (resetVector e).state = .idle then { resetVector e with state := .pending } else resetVector e := by
  unfold vectorAfterReset resetVector
  cases he : e.state <;> simp [he, h]

end VectorAfterReset

theorem pendVectorZero_eq (s : State) :
    pendVectorZero s =
      { s with
        vectors := poke s.vectors 0
          (if (peek s.vectors 0).state = .idle then { peek s.vectors 0 with state := .pending } else peek s.vectors 0) } := by
  unfold pendVectorZero
  split
  · rfl
  · rw [poke_peek_self]

/-- The entries that a reset leaves, vector 0 raised or not, before the re-steer. -/
theorem resetSteering_eq (first : Bool) {firstRecord : Prop} [Decidable firstRecord] (h : first = true ↔ firstRecord)
    (s : State) :
    resetSteering first s =
      resteer
        { s with
          vectors := Vector.ofFn (fun v => vectorAfterReset firstRecord v (peek s.vectors v))
          serviceCounts := Vector.replicate 8 0 } := by
  unfold resetSteering
  refine congrArg resteer ?_
  by_cases hf : first = true
  · have htable : poke (s.vectors.map resetVector) 0
        (if (resetVector (peek s.vectors 0)).state = .idle then { resetVector (peek s.vectors 0) with state := .pending }
          else resetVector (peek s.vectors 0)) =
        Vector.ofFn (fun v => vectorAfterReset firstRecord v (peek s.vectors v)) := by
      refine table_ext (fun v => ?_)
      rw [peek_ofFn, peek_poke, peek_map]
      by_cases hv : v = 0
      · subst hv
        rw [if_pos rfl, vectorAfterReset_raise (h.1 hf)]
      · rw [if_neg (Ne.symm hv), vectorAfterReset_noRaise (fun hx => hv hx.1)]
    rw [if_pos hf, pendVectorZero_eq]
    dsimp only
    rw [peek_map, htable]
  · have htable : s.vectors.map resetVector =
        Vector.ofFn (fun v => vectorAfterReset firstRecord v (peek s.vectors v)) :=
      table_ext (fun v => by
        rw [peek_map, peek_ofFn, vectorAfterReset_noRaise (fun hx => hf (h.2 hx.2))])
    rw [if_neg hf, htable]

/-! ## The tracker (R75, R107) -/

/-- A state after the whole reset but for the re-steer: `u` is the state its slots are left in. -/
def upstreamResetBase (s u : State) : State :=
  { upstreamCleared s with
    dispatch := Vector.replicate 4 [], fenceOrder := []
    vectors := Vector.ofFn (fun v => vectorAfterReset (s.records = []) v (peek s.vectors v))
    serviceCounts := Vector.replicate 8 0
    slots := u.slots, counts := u.counts, buffers := u.buffers.map dropFollowers
    drain := u.drain, bankA := u.bankA, bankB := u.bankB }

/-- R38: the whole reset, by the state that the freeing of the slots leaves. -/
theorem upstreamReset_eq (s : State) : ∃ u, ResetFold (upstreamCleared s) allSlots u ∧
    upstreamReset s = resteer (upstreamResetBase s u) := by
  have hsuppressed : ∀ d, (upstreamCleared s).drain = some d → d.suppressed = true := by
    intro d hd
    obtain ⟨d', -, rfl⟩ := Option.map_eq_some_iff.1 hd
    rfl
  have hfold := resetSlot_foldl allSlots (upstreamCleared s) (List.nodup_finRange 64) hsuppressed
  refine ⟨_, hfold, ?_⟩
  rw [upstreamReset, resetLocks_storeRecord, resetTracker, resetSteering_eq _ List.isEmpty_iff]
  generalize allSlots.foldl (fun s i => resetSlot i s) (upstreamCleared s) = u at hfold ⊢
  refine congrArg resteer ?_
  rw [hfold.rest]
  rfl

/-- R75: what the reset leaves of a slot, by its state. -/
theorem resetUse_some (u : SlotUse) :
    resetUse (some u) =
      match u.state with
      | .sent => some { u with mute := true }
      | .assembling => some { u with mute := true }
      | .orphaned => some u
      | .lockWait => none
      | .fenceWait => none
      | .ready => none
      | .fillWait => none := by
  cases h : u.state <;> simp [resetUse, waitsAtReset, h]

/-- Settles O4: the slots, the counts, the buffers, the drain and the banks are as the freeing of the slots leaves them, and the
re-steer touches none of them. -/
theorem upstreamLinkResetClears : Obligations.UpstreamLinkResetClears := by
  unfold Obligations.UpstreamLinkResetClears
  intro s freed freedOf bodies
  obtain ⟨u, hfold, hreset⟩ := upstreamReset_eq s
  have hframe := resteer_frame (upstreamResetBase s u)
  refine ⟨resteer (upstreamResetBase s u), congrArg Host.Outcome.next hreset, ?_, fun i => ?_, fun g => ?_, fun b => ?_,
    fun hd => ?_, fun d hd => ⟨fun hends => ?_, fun hends => ?_⟩⟩
  · rw [hframe.slots, hframe.counts, hframe.buffers, hframe.drain, hframe.bankA, hframe.bankB]
    rfl
  · have hslot : peek u.slots i = { epoch := (peek s.slots i).epoch, use := resetUse (slotUse s i) } :=
      (hfold.slots i).trans (if_pos (List.mem_finRange i))
    rw [slotUse, hframe.slots]
    have hbase : (upstreamResetBase s u).slots = u.slots := rfl
    rw [hbase, hslot]
    refine ⟨rfl, ?_⟩
    cases slotUse s i with
    | none => rfl
    | some w => exact resetUse_some w
  · rw [hframe.counts]
    exact hfold.counts g
  · rw [hframe.buffers]
    have hbase : (upstreamResetBase s u).buffers = u.buffers.map dropFollowers := rfl
    rw [hbase, peek_map, hfold.buffers b]
    by_cases hled : ∃ w ∈ freed, w.fillLink = some (.leader b)
    · rw [if_pos hled]
      exact congrArg dropFollowers (if_pos hled)
    · rw [if_neg hled]
      exact congrArg dropFollowers (if_neg hled)
  · rw [hframe.drain, hframe.bankA, hframe.bankB]
    have hcleared : (upstreamCleared s).drain = none := congrArg (Option.map suppress) hd
    exact hfold.noDrain hcleared
  all_goals
    have hcleared : (upstreamCleared s).drain = some (suppress d) := congrArg (Option.map suppress) hd
    rw [hframe.drain, hframe.bankA, hframe.bankB]
  · exact hfold.drained (suppress d) hcleared hends
  · exact hfold.draining (suppress d) hcleared hends

end Sys2Proof.Machine
end

section
/-! PROOFS. The capacities, the settings and the credits: what each shared operation of the blocks leaves within its bounds (R27, R40,
R70, R119, R130, R169, R176). Beside the bounds stands the queue of commands, which no operation touches. -/

namespace Sys2Proof.Machine

/-- The three laws of the bounds as one, with a field for each fact. -/
structure InBounds (s : State) : Prop where
  posted : s.postedIntake.length ≤ Config.postedIntakeSize
  nonPosted : s.nonPostedIntake.length ≤ Config.nonPostedIntakeSize
  management : s.managementIntake.length ≤ Config.managementIntakeSize
  queues : ∀ p, (peek s.pwqs p).entries.length ≤ Config.queueSize
  records : s.records.length ≤ Config.recordQueueSize
  timeout : s.timeout ≠ 0
  holdLimit : s.holdLimit ≠ 0
  mask : s.managementMask ≠ 0
  ports : ∀ p, CreditsFit (peek s.ports p)

theorem inBounds_iff (s : State) : InBounds s ↔ WithinCapacities s ∧ SettingsInRange s ∧ CreditsWithinGrants s :=
  ⟨fun h => ⟨⟨h.posted, h.nonPosted, h.management, h.queues, h.records⟩, ⟨h.timeout, h.holdLimit, h.mask⟩, h.ports⟩,
    fun ⟨⟨hposted, hnonPosted, hmanagement, hqueues, hrecords⟩, ⟨htimeout, hhold, hmask⟩, hports⟩ =>
      ⟨hposted, hnonPosted, hmanagement, hqueues, hrecords, htimeout, hhold, hmask, hports⟩⟩

/-- One state leads to another that has the same commands waiting, and is within the bounds if the first one is. -/
structure KeepsBounds (s t : State) : Prop where
  pending : t.pending = s.pending
  bounds : InBounds s → InBounds t

/-- What the bounds and the queue of commands are read from. -/
def boundedPart (s : State) :
    List Instr × List PostedEntry × List NonPostedEntry × List ManagementEntry × Vector PostedQueue 4 × List ErrorRecord ×
      Duration × Duration × AgentSet × Vector PortRecord 4 :=
  (s.pending, s.postedIntake, s.nonPostedIntake, s.managementIntake, s.pwqs, s.records, s.timeout, s.holdLimit,
    s.managementMask, s.ports)

namespace KeepsBounds

theorem refl (s : State) : KeepsBounds s s := ⟨rfl, id⟩

theorem trans {a b c : State} (h : KeepsBounds a b) (k : KeepsBounds b c) : KeepsBounds a c :=
  ⟨k.pending.trans h.pending, k.bounds ∘ h.bounds⟩

theorem fold {α : Type} (f : State → α → State) (h : ∀ s x, KeepsBounds s (f s x)) (l : List α) (s : State) :
    KeepsBounds s (l.foldl f s) := fold_keeps KeepsBounds.refl KeepsBounds.trans f h l s

theorem of_same {s t : State} (h : boundedPart t = boundedPart s) : KeepsBounds s t := by
  simp only [boundedPart, Prod.mk.injEq] at h
  obtain ⟨hpending, hposted, hnonPosted, hmanagement, hpwqs, hrecords, htimeout, hhold, hmask, hports⟩ := h
  refine ⟨hpending, fun b => ?_⟩
  constructor
  · rw [hposted]; exact b.posted
  · rw [hnonPosted]; exact b.nonPosted
  · rw [hmanagement]; exact b.management
  · rw [hpwqs]; exact b.queues
  · rw [hrecords]; exact b.records
  · rw [htimeout]; exact b.timeout
  · rw [hhold]; exact b.holdLimit
  · rw [hmask]; exact b.mask
  · rw [hports]; exact b.ports

/-- An operation that keeps the bounds, run on a state whose bounded part is the same. -/
theorem from_same {s t u : State} (k : KeepsBounds t u) (h : boundedPart t = boundedPart s) : KeepsBounds s u :=
  (of_same h).trans k

end KeepsBounds

/-! ## Frames -/

/-- The tracker, the locks and the waiting orders are outside the bounds. -/
theorem LockFrame.keepsBounds {s t : State} (h : LockFrame s t) : KeepsBounds s t := by
  have hpart := congrArg boundedPart h
  exact .of_same hpart

theorem TrackerFrame.keepsBounds {s t : State} (h : TrackerFrame s t) : KeepsBounds s t := h.toLock.keepsBounds

theorem FreeFrame.keepsBounds {s t : State} (h : FreeFrame s t) : KeepsBounds s t := h.toTracker.keepsBounds

/-- Deliveries of interrupts are outside the bounds. -/
theorem ServiceFrame.keepsBounds {s t : State} (h : ServiceFrame s t) : KeepsBounds s t := by
  have hpart := congrArg boundedPart h
  exact .of_same hpart

theorem raiseOnFirstRecord_keepsBounds (s t : State) : KeepsBounds t (raiseOnFirstRecord s t) :=
  (raiseOnFirstRecord_frame s t).keepsBounds

/-! ## One bounded field replaced -/

theorem setPostedIntake_keepsBounds {l : List PostedEntry} (s : State) (h : l.length ≤ Config.postedIntakeSize) :
    KeepsBounds s { s with postedIntake := l } := ⟨rfl, fun b => { b with posted := h }⟩

theorem setQueue_keepsBounds {s : State} {p : Port} {q : PostedQueue}
    (h : (peek s.pwqs p).entries.length ≤ Config.queueSize → q.entries.length ≤ Config.queueSize) :
    KeepsBounds s { s with pwqs := poke s.pwqs p q } := by
  refine ⟨rfl, fun b => { b with queues := fun p' => ?_ }⟩
  rw [peek_poke]
  split
  · exact h (b.queues p)
  · exact b.queues p'

theorem putPort_keepsBounds {s : State} {p : Port} {r : PortRecord} (h : CreditsFit (peek s.ports p) → CreditsFit r) :
    KeepsBounds s (putPort p r s) := by
  refine ⟨rfl, fun b => { b with ports := fun p' => ?_ }⟩
  rw [putPort_ports, peek_poke]
  split
  · exact h (b.ports p)
  · exact b.ports p'

/-- R177: a record is stored only where there is room. -/
theorem storeRecord_keepsBounds (x : RecordBody) (s : State) : KeepsBounds s (storeRecord x s) := by
  unfold storeRecord
  split
  · next hroom => exact ⟨rfl, fun b => { b with records := by simpa using hroom }⟩
  · exact .of_same rfl

/-! ## The posted intake and the queues -/

/-- R10, R42: a decoded write joins a queue that has room. -/
theorem enqueuePosted_keepsBounds {r : DecodeRecord} {s : State} (e : PostedEntry)
    (hroom : (peek s.pwqs r.port).entries.length < Config.queueSize) : KeepsBounds s (enqueuePosted e r s) := by
  refine (setQueue_keepsBounds (p := r.port)
    (q := { peek s.pwqs r.port with entries := (peek s.pwqs r.port).entries ++ [queueEntry e r] }) fun _ => ?_).trans ?_
  · simpa using hroom
  · exact (countUp_frame r.generation _).keepsBounds.trans (withdrawBlock_frame _ _).keepsBounds

/-- R10, R29: an outcome that lets the head leave finds room where it needs any. -/
theorem takePosted_keepsBounds {d : Decoded} {s : State} (e : PostedEntry) (h : letsHeadLeave d s = true) :
    KeepsBounds s (takePosted e d s) := by
  unfold takePosted
  split
  · split
    · exact storeRecord_keepsBounds _ s
    · exact .refl s
  · exact storeRecord_keepsBounds _ s
  · exact .refl s
  · exact storeRecord_keepsBounds _ s
  · exact enqueuePosted_keepsBounds e ((letsHeadLeave_iff _ s).1 h _ rfl)
  · exact .refl s
  · exact .refl s
  · exact .refl s

/-- R29: what the intake holds only shrinks as its heads leave. -/
theorem exitPostedHeads_keepsBounds (l : List PostedEntry) :
    ∀ s, l.length ≤ Config.postedIntakeSize → KeepsBounds s (exitPostedHeads l s) := by
  induction l with
  | nil => exact fun s _ => .refl s
  | cons e rest ih =>
    intro s hl
    have hrest : rest.length ≤ Config.postedIntakeSize := Nat.le_of_succ_le hl
    unfold exitPostedHeads
    dsimp only
    split
    · next hleave =>
      have htake := takePosted_keepsBounds e (s := { s with postedIntake := rest })
        ((letsHeadLeave_iff _ _).2 ((letsHeadLeave_iff _ s).1 hleave))
      exact (setPostedIntake_keepsBounds s hrest).trans
        (htake.trans ((appendEgress_frame _ _).keepsBounds.trans (ih _ hrest)))
    · exact .refl s

theorem lookUpHead_keepsBounds (s : State) : KeepsBounds s (lookUpHead s) :=
  ⟨(lookUpHead_frame s).pending, fun b => (exitPostedHeads_keepsBounds _ s b.posted).bounds b⟩

theorem testFences_keepsBounds (others : List SlotId) (s : State) : KeepsBounds s (testFences others s) :=
  (testFences_frame others s).keepsBounds

theorem exitHeadsAndTest_keepsBounds (s : State) : KeepsBounds s (exitHeadsAndTest s) := by
  unfold exitHeadsAndTest
  dsimp only
  split
  · exact lookUpHead_keepsBounds s
  · exact (lookUpHead_keepsBounds s).trans (testFences_keepsBounds [] _)

/-- R49: a retirement takes an entry out of its queue. -/
theorem retire_keepsBounds (p : Port) (e : QueueEntry) (s : State) : KeepsBounds s (retire p e s) := by
  refine (setQueue_keepsBounds (p := p)
    (q := { peek s.pwqs p with entries := (peek s.pwqs p).entries.erase e }) fun h => ?_).trans ?_
  · exact List.length_erase_le.trans h
  · exact (countDown_frame e.generation _).keepsBounds.trans
      ((lookUpHead_keepsBounds _).trans (testFences_keepsBounds [] _))

/-- R51: a discard empties the queue. -/
theorem discardQueue_keepsBounds (p : Port) (c : DiscardCause) (s : State) : KeepsBounds s (discardQueue p c s) := by
  have hempty := (setQueue_keepsBounds (s := s) (p := p) (q := { peek s.pwqs p with entries := [] })
    fun _ => Nat.zero_le _).trans
      (.fold (fun s e => countDown e.generation s) (fun s e => (countDown_frame e.generation s).keepsBounds)
        (peek s.pwqs p).entries _)
  unfold discardQueue
  dsimp only
  split
  · exact hempty
  · exact hempty.trans (storeRecord_keepsBounds _ _)

/-! ## The port exit -/

theorem breakLock_keepsBounds (p : Port) (c : BreakCause) (s : State) : KeepsBounds s (breakLock p c s) := by
  unfold breakLock
  split
  · exact .refl s
  · exact (storeRecord_keepsBounds _ _).from_same rfl
  · exact (storeRecord_keepsBounds _ _).from_same rfl

theorem breakAtExit_keepsBounds (p : Port) (c : BreakCause) (s : State) : KeepsBounds s (breakAtExit p c s) := by
  unfold breakAtExit
  split
  · refine (breakLock_keepsBounds p c s).trans ?_
    exact (KeepsBounds.fold _ (fun s i => (meetFenceAtExit_frame i s).keepsBounds) _ _).from_same rfl
  · exact .refl s

theorem portExit_keepsBounds (p : Port) (c : ExitCauses) (s : State) : KeepsBounds s (portExit p c s) := by
  unfold portExit
  refine KeepsBounds.trans ?_ (testFences_keepsBounds _ _)
  refine KeepsBounds.trans ?_ (lookUpHead_keepsBounds _)
  refine KeepsBounds.trans ?_ (answerSlotsAtExit_frame p _).keepsBounds
  refine KeepsBounds.trans ?_ (breakAtExit_keepsBounds p c.lock _)
  refine KeepsBounds.trans ?_ (markWaiting_frame p _).keepsBounds
  exact (discardQueue_keepsBounds p c.discard s).trans (freeValidBuffers_frame p _).keepsBounds

/-- R136, R137: a port that leaves service has no grant and no credit. -/
theorem creditsFit_of_zero {r : PortRecord} (hstate : r.state ≠ .active) (hposted : r.postedCredit = 0)
    (hnonPosted : r.nonPostedCredit = 0) (hpostedGrant : r.postedGrant = 0) (hnonPostedGrant : r.nonPostedGrant = 0) :
    CreditsFit r := by
  unfold CreditsFit
  rw [if_neg hstate]
  omega

theorem failPort_keepsBounds (p : Port) (c : FaultCause) (x : Option SlotId) (s : State) :
    KeepsBounds s (failPort p c x s) := by
  rw [failPort_eq]
  refine KeepsBounds.trans (putPort_keepsBounds (p := p) (r := failedRecord c (peek s.ports p))
    fun _ => creditsFit_of_zero nofun rfl rfl rfl rfl) ?_
  exact (storeRecord_keepsBounds _ _).trans (portExit_keepsBounds p _ _)

end Sys2Proof.Machine
end

section
/-! PROOFS. The capacities, the settings and the credits, kept by every command; and no command stops the part or touches the queue
of commands. -/

namespace Sys2Proof.Machine

/-- A command answers a next state, which keeps the bounds and the queue of the state it ran on. -/
def OutcomeKeepsBounds (s : State) (o : Host.Outcome State Fault Refusal) : Prop := ∃ t, o = .next t ∧ KeepsBounds s t

theorem OutcomeKeepsBounds.next {s t : State} (h : KeepsBounds s t) : OutcomeKeepsBounds s (.next t) := ⟨t, rfl, h⟩

theorem OutcomeKeepsBounds.event {act : State → State} {s : State} (h : KeepsBounds s (act s)) :
    OutcomeKeepsBounds s (event act s) := .next (h.trans (raiseOnFirstRecord_keepsBounds s _))

/-! ## Arrivals -/

theorem takeFreeAddress_keepsBounds (words : List Word) (s : State) : KeepsBounds s (takeFreeAddress words s) := by
  unfold takeFreeAddress
  split <;> exact .of_same rfl

theorem spendCredit_keepsBounds (c : CreditClass) (s : State) : KeepsBounds s (spendCredit c s) := by
  cases c <;> exact .of_same rfl

/-- R27: a list that is below its capacity holds one more. -/
theorem length_append_one_le {α : Type} {l : List α} {n : Nat} (x : α) (h : ¬ n ≤ l.length) : (l ++ [x]).length ≤ n := by
  simpa using Nat.lt_of_not_le h

/-- R22 check 7: a posted write joins its intake only where there is room. -/
theorem joinPosted_keepsBounds {s : State} (hroom : ¬ Config.postedIntakeSize ≤ s.postedIntake.length) (a : Agent)
    (addr : Addr) (length : Nat) (data : List Byte) : KeepsBounds s (joinPosted a addr length data s) := by
  have hjoin := setPostedIntake_keepsBounds s (length_append_one_le
    { agent := a, address := addr, length, data, arrival := s.arrivalCounter : PostedEntry } hroom)
  unfold joinPosted
  dsimp only
  split
  · exact hjoin.trans ((exitHeadsAndTest_keepsBounds _).from_same rfl)
  · exact hjoin.trans (.of_same rfl)

theorem arrivePosted_keepsBounds (agent : BitVec 4) (length : Nat) (words : List Word) (data : List Byte) (s : State) :
    KeepsBounds s (arrivePosted agent length words data s) := by
  unfold arrivePosted
  dsimp only
  split
  · exact storeRecord_keepsBounds _ s
  · split
    · exact storeRecord_keepsBounds _ s
    · split
      · exact storeRecord_keepsBounds _ s
      · next hroom => exact joinPosted_keepsBounds hroom _ _ _ _

/-- R22 check 7: a non-posted request joins its intake only where there is room. -/
theorem admitNonPosted_keepsBounds (a : Agent) (t : Tag) (kind : UpKind) (body : NonPostedBody) (s : State) :
    KeepsBounds s (admitNonPosted a t kind body s) := by
  unfold admitNonPosted
  split
  · exact storeRecord_keepsBounds _ s
  · split
    · exact storeRecord_keepsBounds _ s
    · next hroom => exact ⟨rfl, fun b => { b with nonPosted := length_append_one_le _ hroom }⟩

theorem arriveAccess_keepsBounds (k : SlotKind) (agent : BitVec 4) (tag : BitVec 6) (length : Nat) (words : List Word)
    (data : List Byte) (s : State) : KeepsBounds s (arriveAccess k agent tag length words data s) := by
  unfold arriveAccess
  dsimp only
  split
  · split
    · exact storeRecord_keepsBounds _ s
    · exact admitNonPosted_keepsBounds _ _ _ _ s
  · exact storeRecord_keepsBounds _ s

theorem accessArrives_keepsBounds (k : SlotKind) (agent : BitVec 4) (tag : BitVec 6) (length : BitVec 9) (words : List Word)
    (data : List Byte) (s : State) : KeepsBounds s (accessArrives k agent tag length words data s) :=
  ((spendCredit_keepsBounds .nonPosted s).trans (arriveAccess_keepsBounds k agent tag _ words data _)).trans
    (takeFreeAddress_keepsBounds words _)

theorem arriveRelease_keepsBounds (agent : BitVec 4) (tag : BitVec 6) (words : List Word) (data : List Byte) (s : State) :
    KeepsBounds s (arriveRelease agent tag words data s) := by
  unfold arriveRelease
  split
  · split
    · exact admitNonPosted_keepsBounds _ _ _ _ s
    · exact storeRecord_keepsBounds _ s
  · exact storeRecord_keepsBounds _ s

/-- R161: the unit takes a request out of the management intake. -/
theorem takeManagementHead_keepsBounds (s : State) : KeepsBounds s (takeManagementHead s) := by
  unfold takeManagementHead
  split
  · next e rest _ hintake =>
    refine ⟨rfl, fun b => { b with management := Nat.le_of_succ_le ?_ }⟩
    have hlength := b.management
    rw [hintake] at hlength
    exact hlength
  · exact .refl s
  · exact .refl s

/-- R22 check 7: a management request joins its intake only where there is room. -/
theorem admitManagement_keepsBounds (e : ManagementEntry) (s : State) : KeepsBounds s (admitManagement e s) := by
  unfold admitManagement
  split
  · exact storeRecord_keepsBounds _ s
  · split
    · exact storeRecord_keepsBounds _ s
    · next hroom =>
      have hjoin : KeepsBounds s
          (takeNumber (takeIdentifier e.agent e.tag { s with managementIntake := s.managementIntake ++ [e] })) :=
        ⟨rfl, fun b => { b with management := length_append_one_le e hroom }⟩
      unfold joinManagement
      dsimp only
      split
      · exact hjoin.trans (takeManagementHead_keepsBounds _)
      · exact hjoin

theorem arriveManagement_keepsBounds (agent : BitVec 4) (tag : BitVec 6) (operation : BitVec 4) (index : BitVec 7)
    (words : List Word) (data : List Byte) (s : State) :
    KeepsBounds s (arriveManagement agent tag operation index words data s) := by
  unfold arriveManagement
  split
  · split
    · exact storeRecord_keepsBounds _ s
    · split
      · exact storeRecord_keepsBounds _ s
      · exact admitManagement_keepsBounds _ s
  · exact storeRecord_keepsBounds _ s

theorem takeServiceDone_keepsBounds (a : Agent) (v : VectorId) (s : State) : KeepsBounds s (takeServiceDone a v s) := by
  unfold takeServiceDone
  split
  · exact storeRecord_keepsBounds _ s
  · exact storeRecord_keepsBounds _ s
  · split
    · exact (endService_frame v a s).keepsBounds
    · exact storeRecord_keepsBounds _ s

theorem arriveServiceDone_keepsBounds (agent : BitVec 4) (vector : BitVec 7) (words : List Word) (data : List Byte)
    (s : State) : KeepsBounds s (arriveServiceDone agent vector words data s) := by
  unfold arriveServiceDone
  split
  · split
    · exact takeServiceDone_keepsBounds _ _ s
    · exact storeRecord_keepsBounds _ s
  · exact storeRecord_keepsBounds _ s

/-! ## The exit of the non-posted intake -/

theorem answerNow_frame (e : NonPostedEntry) (st : Status) (data : List Byte) (s : State) :
    FreeFrame s (answerNow e st data s) := appendCompletion_frame _ s

theorem takeAccess_keepsBounds (e : NonPostedEntry) (k : SlotKind) (a : Addr) (n : Nat) (data : List Byte) (d : Decoded)
    (s : State) : KeepsBounds s (takeAccess e k a n data d s) := by
  have hanswer : ∀ {st data} {t : State}, KeepsBounds s t → KeepsBounds s (answerNow e st data t) :=
    fun h => h.trans (answerNow_frame e _ _ _).keepsBounds
  unfold takeAccess
  split
  · refine hanswer ?_
    split
    · exact storeRecord_keepsBounds _ s
    · exact .refl s
  · exact hanswer (storeRecord_keepsBounds _ s)
  · exact hanswer (.refl s)
  · exact hanswer (.refl s)
  · exact hanswer (storeRecord_keepsBounds _ s)
  · exact hanswer (.refl s)
  · exact hanswer (touchBuffer_frame _ s).keepsBounds
  · exact (allocate_frame e k data _ s).keepsBounds

theorem takeRelease_keepsBounds (e : NonPostedEntry) (s : State) : KeepsBounds s (takeRelease e s) := by
  unfold takeRelease
  split
  · exact (answerNow_frame e _ _ s).keepsBounds.trans (openLock_frame _ _).keepsBounds
  · split
    · exact .of_same rfl
    · exact (storeRecord_keepsBounds _ s).trans (answerNow_frame e _ _ _).keepsBounds

/-- R32: the entry that leaves makes the intake shorter. -/
theorem exitNonPosted_keepsBounds (e : NonPostedEntry) (s : State) : KeepsBounds s (exitNonPosted e s) := by
  have hleave : KeepsBounds s
      (appendEgress (.creditReturn .nonPosted) { s with nonPostedIntake := s.nonPostedIntake.erase e }) :=
    ⟨rfl, fun b => { b with nonPosted := List.length_erase_le.trans b.nonPosted }⟩
  unfold exitNonPosted
  dsimp only
  split
  · exact hleave.trans (takeRelease_keepsBounds e _)
  · exact hleave.trans (takeAccess_keepsBounds e _ _ _ _ _ _)

/-! ## Messages from a target -/

theorem ifActive_keepsBounds {act : State → State} {s : State} (p : Port) (h : KeepsBounds s (act s)) :
    KeepsBounds s (ifActive p act s) := by
  unfold ifActive
  split
  · exact h
  · exact .refl s

/-- R128, R130: a port becomes Active with its credits equal to its grants, which are within 1 to 16 and 1 to 32. -/
theorem takeReady_keepsBounds (p : Port) (posted nonPosted : Nat) (s : State) :
    KeepsBounds s (takeReady p posted nonPosted s) := by
  unfold takeReady
  dsimp only
  split
  · split
    · next hgrants =>
      exact putPort_keepsBounds fun _ => ⟨Nat.le_refl _, Nat.le_refl _, by rw [if_pos rfl]; exact hgrants⟩
    · exact failPort_keepsBounds p _ _ s
  · exact failPort_keepsBounds p _ _ s
  · exact .refl s
  · exact .refl s

/-- R131: a credit return that would exceed the grant is a protocol fault, so the credits it adds fit. -/
theorem takeCredit_keepsBounds (p : Port) (lane : Lane) (count : Nat) (s : State) :
    KeepsBounds s (takeCredit p lane count s) := by
  unfold takeCredit
  dsimp only
  split
  · split
    · exact failPort_keepsBounds p _ _ s
    · next hfits =>
      refine putPort_keepsBounds fun h => ⟨?_, h.2⟩
      dsimp only
      omega
  · split
    · exact failPort_keepsBounds p _ _ s
    · next hfits =>
      refine putPort_keepsBounds fun h => ⟨h.1, ?_, h.2.2⟩
      dsimp only
      omega

theorem takeReceipt_keepsBounds (p : Port) (seq : WriteSeq) (s : State) : KeepsBounds s (takeReceipt p seq s) := by
  unfold takeReceipt
  split
  · split
    · exact retire_keepsBounds p _ s
    · exact failPort_keepsBounds p _ _ s
  · exact failPort_keepsBounds p _ _ s

theorem takeInterrupt_keepsBounds (p : Port) (vector : BitVec 7) (s : State) :
    KeepsBounds s (takeInterrupt p vector s) := by
  unfold takeInterrupt
  split
  · split
    · exact storeRecord_keepsBounds _ s
    · exact (raiseVector_frame _ s).keepsBounds
  · exact storeRecord_keepsBounds _ s

/-! ## Completion pieces -/

theorem completeRead_frame (i : SlotId) (u : SlotUse) (block : List Byte) (s : State) :
    LockFrame s (completeRead i u block s) := by
  unfold completeRead
  split
  · exact ((reply_frame u _ _ s).toTracker.trans
      ((endFillDone_frame _ _ _).trans (freeSlot_frame i _).toTracker)).toLock
  · exact (answerSlot_frame i _ _ s).toTracker.toLock.trans (lockActs_frame i _ _ _)
  · exact (answerSlot_frame i _ _ s).toTracker.toLock.trans (lockActs_frame i _ _ _)

theorem takeReadPiece_keepsBounds (p : Port) (i : SlotId) (u : SlotUse) (offset count : Nat) (data : List Byte)
    (s : State) : KeepsBounds s (takeReadPiece p i u offset count data s) := by
  unfold takeReadPiece
  split
  · exact failPort_keepsBounds p _ _ s
  · have hput := (putUse_frame i (some { u with state := .assembling, received := putBytes u.received offset data }) s).keepsBounds
    dsimp only
    split
    · exact hput.trans (completeRead_frame i _ _ _).keepsBounds
    · exact hput

theorem takeWritePiece_keepsBounds (p : Port) (i : SlotId) (u : SlotUse) (count : Nat) (data : List Byte) (s : State) :
    KeepsBounds s (takeWritePiece p i u count data s) := by
  unfold takeWritePiece
  split
  · exact (answerSlot_frame i _ _ s).keepsBounds.trans (lockActs_frame i _ _ _).keepsBounds
  · exact failPort_keepsBounds p _ _ s

theorem takeMatchingPiece_keepsBounds (p : Port) (i : SlotId) (u : SlotUse) (status : PieceStatus) (offset count : Nat)
    (data : List Byte) (s : State) : KeepsBounds s (takeMatchingPiece p i u status offset count data s) := by
  unfold takeMatchingPiece
  split
  · exact (freeSlot_frame i s).keepsBounds.trans (storeRecord_keepsBounds _ _)
  · cases status with
    | fault => exact (failSlot_frame i _ s).keepsBounds.trans (lockActs_frame i _ _ _).keepsBounds
    | good =>
      dsimp only
      split
      · exact takeReadPiece_keepsBounds p i u _ _ _ s
      · exact takeReadPiece_keepsBounds p i u _ _ _ s
      · exact takeWritePiece_keepsBounds p i u _ _ s
      · exact takeWritePiece_keepsBounds p i u _ _ s

theorem takePiece_keepsBounds (p : Port) (tag : BitVec 8) (status : PieceStatus) (offset count : Nat) (data : List Byte)
    (s : State) : KeepsBounds s (takePiece p tag status offset count data s) := by
  unfold takePiece
  split
  · exact failPort_keepsBounds p _ _ s
  · split
    · exact storeRecord_keepsBounds _ s
    · split
      · exact takeMatchingPiece_keepsBounds p _ _ _ _ _ _ s
      · exact .refl s

/-! ## Sends -/

theorem markSent_length (seq : WriteSeq) (l : List QueueEntry) : (markSent seq l).length = l.length := by
  have h := congrArg List.length (markSent_generations seq l)
  simpa using h

/-- R45, R130: a send spends a credit, and its entry stays in the queue. -/
theorem sendPosted_keepsBounds (p : Port) (e : QueueEntry) (s : State) : KeepsBounds s (sendPosted p e s) := by
  have hport := putPort_keepsBounds (s := s) (p := p) (r := { peek s.ports p with
    postedCredit := (peek s.ports p).postedCredit - 1, lastWinner := .posted })
    fun h => ⟨(Nat.sub_le _ 1).trans h.1, h.2⟩
  refine hport.trans ((setQueue_keepsBounds (p := p) (q :=
    { entries := markSent (peek s.pwqs p).nextSeq (peek s.pwqs p).entries, nextSeq := (peek s.pwqs p).nextSeq + 1 })
    fun h => ?_).trans (.of_same rfl))
  exact (markSent_length _ _).trans_le h

/-- R63, R130: a send spends a credit. -/
theorem sendNonPosted_keepsBounds (p : Port) (i : SlotId) (u : SlotUse) (s : State) :
    KeepsBounds s (sendNonPosted p i u s) :=
  (putPort_keepsBounds (p := p) (r := { peek s.ports p with
    nonPostedCredit := (peek s.ports p).nonPostedCredit - 1, lastWinner := .nonPosted })
    fun h => ⟨h.1, (Nat.sub_le _ 1).trans h.2.1, h.2.2⟩).trans (.of_same rfl)

/-! ## Timers -/

theorem orphanSlot_frame (i : SlotId) (u : SlotUse) (s : State) : TrackerFrame s (orphanSlot i u s) :=
  ((reply_frame u _ _ s).trans (putUse_frame i _ _)).toTracker.trans (endLedFill_frame u _ _)

theorem expireSlot_keepsBounds (i : SlotId) (u : SlotUse) (s : State) : KeepsBounds s (expireSlot i u s) := by
  unfold expireSlot
  refine KeepsBounds.trans ?_ (lockActs_frame i _ _ _).keepsBounds
  refine (storeRecord_keepsBounds (.completionExpired u.agent u.tag u.port i u.state) s).trans ?_
  split
  · exact (orphanSlot_frame i u _).keepsBounds
  · exact (leaveLists_frame i u _).keepsBounds.trans (failSlot_frame i _ _).keepsBounds

/-! ## Management -/

theorem endRequest_keepsBounds {r : ManagementEntry} {rule : ManagementEntry → State → Answer}
    (h : ∀ s, KeepsBounds s (rule r s).after) (s : State) : KeepsBounds s (endRequest r rule s) := by
  have hanswer : KeepsBounds s (answerRequest r rule { s with current := none }).after := by
    unfold answerRequest
    split
    · exact .of_same rfl
    · split
      · exact (storeRecord_keepsBounds _ _).from_same rfl
      · split
        · exact .of_same rfl
        · exact (h _).from_same rfl
  exact (hanswer.trans (raiseOnFirstRecord_keepsBounds s _)).trans (appendCompletion_frame _ _).keepsBounds

theorem executionEnd_keepsBounds {named : ManagementEntry → Bool} {rule : ManagementEntry → State → Answer}
    (h : ∀ r s, KeepsBounds s (rule r s).after) (s : State) : OutcomeKeepsBounds s (executionEnd named rule s) := by
  unfold executionEnd
  split
  · split
    · exact .next (endRequest_keepsBounds (h _) s)
    · exact .next (.refl s)
  · exact .next (.refl s)

theorem answerInvalid_keepsBounds (_ : ManagementEntry) (s : State) : KeepsBounds s (answerInvalid s).after := .refl s

theorem readRegisterRule_keepsBounds (r : ManagementEntry) (s : State) : KeepsBounds s (readRegisterRule r s).after := by
  unfold readRegisterRule
  split <;> exact .refl s

theorem readErrorStatusRule_keepsBounds (r : ManagementEntry) (s : State) :
    KeepsBounds s (readErrorStatusRule r s).after := by
  unfold readErrorStatusRule
  split <;> exact .of_same rfl

/-- R169: an empty mask is refused. -/
theorem writeMaskRule_keepsBounds (r : ManagementEntry) (s : State) : KeepsBounds s (writeMaskRule r s).after := by
  unfold writeMaskRule
  dsimp only
  split
  · exact .refl s
  · next hmask => exact ⟨rfl, fun b => { b with mask := hmask }⟩

theorem writeMissRule_keepsBounds (r : ManagementEntry) (s : State) : KeepsBounds s (writeMissRule r s).after :=
  .of_same rfl

/-- R70: a timeout of 0 is refused. -/
theorem writeTimeoutRule_keepsBounds (r : ManagementEntry) (s : State) : KeepsBounds s (writeTimeoutRule r s).after := by
  unfold writeTimeoutRule
  dsimp only
  split
  · exact .refl s
  · next htimeout => exact ⟨rfl, fun b => { b with timeout := htimeout }⟩

/-- R119: a hold limit of 0 is refused. -/
theorem writeHoldRule_keepsBounds (r : ManagementEntry) (s : State) : KeepsBounds s (writeHoldRule r s).after := by
  unfold writeHoldRule
  dsimp only
  split
  · exact .refl s
  · next hhold => exact ⟨rfl, fun b => { b with holdLimit := hhold }⟩

theorem resteer_keepsBounds (s : State) : KeepsBounds s (resteer s) := (resteer_frame s).keepsBounds

theorem writeMasksRule_keepsBounds (r : ManagementEntry) (s : State) : KeepsBounds s (writeMasksRule r s).after := by
  unfold writeMasksRule
  rw [answerDone_after]
  exact (resteer_keepsBounds _).from_same rfl

theorem stageWindowRule_keepsBounds (r : ManagementEntry) (s : State) : KeepsBounds s (stageWindowRule r s).after := by
  unfold stageWindowRule
  split
  · exact .refl s
  · split
    · split
      · exact .refl s
      · unfold stageEntry
        cases s.activeBank <;> exact .of_same rfl
    · exact .refl s

theorem readWindowRule_keepsBounds (r : ManagementEntry) (s : State) : KeepsBounds s (readWindowRule r s).after := by
  unfold readWindowRule
  split <;> exact .refl s

/-- R127: a port enters Waiting with no grant and no credit, and its queue keeps its entries. -/
theorem enterWaiting_keepsBounds (p : Port) (s : State) : KeepsBounds s (enterWaiting p s) := by
  refine KeepsBounds.trans ?_ (setQueue_keepsBounds (p := p) (q := { peek s.pwqs p with nextSeq := 0 }) id)
  exact putPort_keepsBounds fun _ => creditsFit_of_zero nofun rfl rfl rfl rfl

/-- R137: a disabled port has no grant and no credit. -/
theorem leaveService_disabled_keepsBounds (p : Port) (s : State) : KeepsBounds s (leaveService p .disabled s) :=
  putPort_keepsBounds fun _ => creditsFit_of_zero nofun rfl rfl rfl rfl

theorem portControlRule_keepsBounds (r : ManagementEntry) (s : State) : KeepsBounds s (portControlRule r s).after := by
  unfold portControlRule
  split
  · exact .refl s
  · split
    · unfold enableRule; split
      · exact enterWaiting_keepsBounds _ s
      · exact .refl s
    · split
      · unfold disableRule; split
        · exact .refl s
        · exact (leaveService_disabled_keepsBounds _ s).trans (portExit_keepsBounds _ _ _)
      · split
        · unfold restartRule; split
          · exact enterWaiting_keepsBounds _ s
          · exact .refl s
        · exact .refl s

theorem writeVectorRule_keepsBounds (r : ManagementEntry) (s : State) : KeepsBounds s (writeVectorRule r s).after := by
  unfold writeVectorRule
  dsimp only
  split
  · exact .refl s
  · rw [answerDone_after]
    exact (resteer_keepsBounds _).from_same rfl

/-- R180: the record taken leaves the queue. -/
theorem takeRecordRule_keepsBounds (r : ManagementEntry) (s : State) : KeepsBounds s (takeRecordRule r s).after := by
  unfold takeRecordRule
  split
  · exact .refl s
  · next x rest hrecords =>
    refine ⟨rfl, fun b => { b with records := Nat.le_of_succ_le ?_ }⟩
    have hlength := b.records
    rw [hrecords] at hlength
    exact hlength

theorem commitAccepted_keepsBounds (r : ManagementEntry) (s : State) : KeepsBounds s (commitAccepted r s) := by
  refine KeepsBounds.trans ?_ (endDrainIfDone_frame _).keepsBounds
  refine KeepsBounds.trans ?_ (raiseOnFirstRecord_keepsBounds s _)
  unfold acceptCommit swapBanks
  refine KeepsBounds.trans ((exitHeadsAndTest_keepsBounds _).from_same ?_) (.of_same rfl)
  rfl

/-! ## Resets -/

theorem reset_inBounds : InBounds State.reset :=
  (inBounds_iff _).2 ⟨reset_withinCapacities, reset_settingsInRange, reset_creditsWithinGrants⟩

/-- The cold reset keeps the queue of commands, and its state is within the bounds whatever came before it. -/
theorem execColdReset_keepsBounds (s : State) : OutcomeKeepsBounds s (execColdReset s) :=
  .next ⟨rfl, fun _ => { reset_inBounds with }⟩

/-- R38: the reset empties the intakes, and stores no more records than find room. -/
theorem upstreamReset_keepsBounds (s : State) : KeepsBounds s (upstreamReset s) := by
  obtain ⟨u, -, hreset⟩ := upstreamReset_eq s
  rw [hreset]
  refine KeepsBounds.trans ?_ (resteer_keepsBounds _)
  refine ⟨rfl, fun b => { b with
    posted := Nat.zero_le _, nonPosted := Nat.zero_le _, management := Nat.zero_le _, records := ?_ }⟩
  have hrecords : (upstreamResetBase s u).records = s.records ++
      ((resetBodies s).take (32 - s.records.length)).map (fun x => { time := s.bridgeTime, body := x }) := rfl
  have hroom : s.records.length ≤ 32 := b.records
  rw [hrecords, List.length_append, List.length_map, List.length_take]
  unfold Config.recordQueueSize
  omega

/-! ## Every command -/

theorem execPostedWrite_keepsBounds (agent : BitVec 4) (length : BitVec 9) (words : List Word) (data : List Byte)
    (s : State) : OutcomeKeepsBounds s (execPostedWrite agent length words data s) := by
  refine .event (KeepsBounds.trans ?_ (takeFreeAddress_keepsBounds words _))
  exact (spendCredit_keepsBounds .posted s).trans (arrivePosted_keepsBounds agent _ words data _)

theorem execExclusiveRelease_keepsBounds (agent : BitVec 4) (tag : BitVec 6) (words : List Word) (data : List Byte)
    (s : State) : OutcomeKeepsBounds s (execExclusiveRelease agent tag words data s) := by
  refine .event (KeepsBounds.trans ?_ (arriveRelease_keepsBounds agent tag words data _))
  exact spendCredit_keepsBounds .nonPosted s

theorem execManagementRequest_keepsBounds (agent : BitVec 4) (tag : BitVec 6) (operation : BitVec 4) (index : BitVec 7)
    (words : List Word) (data : List Byte) (s : State) :
    OutcomeKeepsBounds s (execManagementRequest agent tag operation index words data s) := by
  refine .event (KeepsBounds.trans ?_ (arriveManagement_keepsBounds agent tag operation index words data _))
  exact spendCredit_keepsBounds .management s

theorem execNonPostedIntakeExit_keepsBounds (s : State) : OutcomeKeepsBounds s (execNonPostedIntakeExit s) := by
  unfold execNonPostedIntakeExit
  split
  · exact .event (exitNonPosted_keepsBounds _ s)
  · exact .next (.refl s)

theorem execPostedWriteSend_keepsBounds (p : Port) (s : State) : OutcomeKeepsBounds s (execPostedWriteSend p s) := by
  unfold execPostedWriteSend
  split
  · exact .next (sendPosted_keepsBounds p _ s)
  · exact .next (.refl s)

theorem execNonPostedSend_keepsBounds (p : Port) (s : State) : OutcomeKeepsBounds s (execNonPostedSend p s) := by
  unfold execNonPostedSend
  split
  · split
    · exact .next (sendNonPosted_keepsBounds p _ _ s)
    · exact .next (.refl s)
  · exact .next (.refl s)

theorem execPortLinkFault_keepsBounds (p : Port) (s : State) : OutcomeKeepsBounds s (execPortLinkFault p s) := by
  refine .event ?_
  split
  · exact failPort_keepsBounds p _ none s
  · exact .refl s

theorem execCompletionTimerExpiry_keepsBounds (i : SlotId) (s : State) :
    OutcomeKeepsBounds s (execCompletionTimerExpiry i s) := by
  unfold execCompletionTimerExpiry
  split
  · split
    · exact .event (expireSlot_keepsBounds i _ s)
    · exact .next (.refl s)
  · exact .next (.refl s)

theorem execOrphanTimerExpiry_keepsBounds (i : SlotId) (s : State) : OutcomeKeepsBounds s (execOrphanTimerExpiry i s) := by
  unfold execOrphanTimerExpiry
  split
  · split
    · exact .event ((freeSlot_frame i s).keepsBounds.trans (storeRecord_keepsBounds _ _))
    · exact .next (.refl s)
  · exact .next (.refl s)

theorem execHoldTimerExpiry_keepsBounds (p : Port) (s : State) : OutcomeKeepsBounds s (execHoldTimerExpiry p s) := by
  unfold execHoldTimerExpiry
  split
  · split
    · exact .event ((breakLock_keepsBounds p _ s).trans (openLock_frame p _).keepsBounds)
    · exact .next (.refl s)
  · exact .next (.refl s)
  · exact .next (.refl s)

theorem execCommitWindows_keepsBounds (s : State) : OutcomeKeepsBounds s (execCommitWindows s) := by
  unfold execCommitWindows
  split
  · split
    · exact .next (commitAccepted_keepsBounds _ s)
    · exact executionEnd_keepsBounds (fun _ s => .refl s) s
  · exact .next (.refl s)

theorem execEgressTransmission_keepsBounds (s : State) : OutcomeKeepsBounds s (execEgressTransmission s) := by
  unfold execEgressTransmission
  split
  · exact .next (.refl s)
  · exact .next (.of_same rfl)

/-- Every command answers a next state, with the same commands waiting and the bounds kept. -/
theorem exec_keepsBounds (c : Instr) (s : State) : OutcomeKeepsBounds s (exec c s) := by
  cases c with
  | coldReset => exact execColdReset_keepsBounds s
  | upstreamLinkReset => exact .next (upstreamReset_keepsBounds s)
  | postedWrite agent length words data => exact execPostedWrite_keepsBounds agent length words data s
  | read agent tag length words data => exact .event (accessArrives_keepsBounds .read agent tag length words data s)
  | nonPostedWrite agent tag length words data =>
    exact .event (accessArrives_keepsBounds .nonPostedWrite agent tag length words data s)
  | exclusiveRead agent tag length words data =>
    exact .event (accessArrives_keepsBounds .exclusiveRead agent tag length words data s)
  | exclusiveWrite agent tag length words data =>
    exact .event (accessArrives_keepsBounds .exclusiveWrite agent tag length words data s)
  | exclusiveRelease agent tag words data => exact execExclusiveRelease_keepsBounds agent tag words data s
  | managementRequest agent tag operation index words data =>
    exact execManagementRequest_keepsBounds agent tag operation index words data s
  | serviceDone agent vector words data => exact .event (arriveServiceDone_keepsBounds agent vector words data s)
  | unknownKindPacket kind agent => exact .event (storeRecord_keepsBounds _ s)
  | postedIntakeExit => exact .event (exitHeadsAndTest_keepsBounds s)
  | nonPostedIntakeExit => exact execNonPostedIntakeExit_keepsBounds s
  | postedWriteSend port => exact execPostedWriteSend_keepsBounds port s
  | nonPostedSend port => exact execNonPostedSend_keepsBounds port s
  | readyMessage port postedGrant nonPostedGrant => exact .event (takeReady_keepsBounds port _ _ s)
  | creditReturn port lane count => exact .event (ifActive_keepsBounds port (takeCredit_keepsBounds port lane _ s))
  | receipt port seq => exact .event (ifActive_keepsBounds port (takeReceipt_keepsBounds port seq s))
  | completionPiece port tag status offset count data =>
    exact .event (ifActive_keepsBounds port (takePiece_keepsBounds port tag status _ _ data s))
  | interruptMessage port vector => exact .event (ifActive_keepsBounds port (takeInterrupt_keepsBounds port vector s))
  | malformedMessage port => exact .event (ifActive_keepsBounds port (failPort_keepsBounds port _ none s))
  | portLinkFault port => exact execPortLinkFault_keepsBounds port s
  | completionTimerExpiry slot => exact execCompletionTimerExpiry_keepsBounds slot s
  | orphanTimerExpiry slot => exact execOrphanTimerExpiry_keepsBounds slot s
  | holdTimerExpiry port => exact execHoldTimerExpiry_keepsBounds port s
  | commitDrainEnd => exact .next (endDrainIfDone_frame s).keepsBounds
  | managementTake => exact .next (takeManagementHead_keepsBounds s)
  | undefinedOperation => exact executionEnd_keepsBounds answerInvalid_keepsBounds s
  | readRegister => exact executionEnd_keepsBounds readRegisterRule_keepsBounds s
  | readErrorQueueStatus => exact executionEnd_keepsBounds readErrorStatusRule_keepsBounds s
  | writeRegister => exact executionEnd_keepsBounds answerInvalid_keepsBounds s
  | writeManagementAgentMask => exact executionEnd_keepsBounds writeMaskRule_keepsBounds s
  | writeMissPolicy => exact executionEnd_keepsBounds writeMissRule_keepsBounds s
  | writeCompletionTimeout => exact executionEnd_keepsBounds writeTimeoutRule_keepsBounds s
  | writeExclusiveHoldLimit => exact executionEnd_keepsBounds writeHoldRule_keepsBounds s
  | writeAgentInterruptMasks => exact executionEnd_keepsBounds writeMasksRule_keepsBounds s
  | stageWindow => exact executionEnd_keepsBounds stageWindowRule_keepsBounds s
  | readWindow => exact executionEnd_keepsBounds readWindowRule_keepsBounds s
  | commitWindows => exact execCommitWindows_keepsBounds s
  | portControlEnable => exact executionEnd_keepsBounds portControlRule_keepsBounds s
  | portControlDisable => exact executionEnd_keepsBounds portControlRule_keepsBounds s
  | portControlRestart => exact executionEnd_keepsBounds portControlRule_keepsBounds s
  | writeVector => exact executionEnd_keepsBounds writeVectorRule_keepsBounds s
  | readVector => exact executionEnd_keepsBounds (fun _ s => .refl s) s
  | takeErrorRecord => exact executionEnd_keepsBounds takeRecordRule_keepsBounds s
  | bridgeTimeAdvance => exact .next (.of_same rfl)
  | egressTransmission => exact execEgressTransmission_keepsBounds s

/-- Settles O2: the state that a command answers has the same commands waiting. -/
theorem everyCommandAnswersNext : Obligations.EveryCommandAnswersNext := by
  unfold Obligations.EveryCommandAnswersNext
  intro c s
  obtain ⟨t, hnext, hkeeps⟩ := exec_keepsBounds c s
  exact ⟨t, hnext, hkeeps.pending⟩

/-- Settles O53: the command a step takes runs on a state that differs from the one before in the queue of commands alone. -/
theorem capacitiesSettingsAndCreditsKept : Obligations.CapacitiesSettingsAndCreditsKept := by
  unfold Obligations.CapacitiesSettingsAndCreditsKept
  intro s t hcapacities hsettings hcredits hstep
  have hs := (inBounds_iff s).2 ⟨hcapacities, hsettings, hcredits⟩
  refine (inBounds_iff t).1 ?_
  unfold step at hstep
  split at hstep
  · cases hstep
    exact hs
  · next c rest _ =>
    obtain ⟨t', hnext, hkeeps⟩ := exec_keepsBounds c { s with pending := rest }
    cases hnext.symm.trans hstep
    exact hkeeps.bounds { hs with }

end Sys2Proof.Machine
end

section
/-! PROOFS. The arrivals: the checks of R22 in their order and their records (R23, R185), and the intakes that the requests join
(R25 to R29, R161). -/

namespace Sys2Proof.Machine

/-! ## The address words of a packet (12.1; logs 7, 8) -/

theorem arrivingAddress_whole (low high : Word) (more : List Word) (s : State) :
    arrivingAddress (low :: high :: more) s = high.extractLsb' 0 8 ++ low := rfl

theorem arrivingAddress_lowWord (low : Word) (s : State) : (arrivingAddress [low] s).extractLsb' 0 32 = low :=
  BitVec.extractLsb'_append_eq_right

theorem arrivingAddress_spendCredit (words : List Word) (c : CreditClass) (s : State) :
    arrivingAddress words (spendCredit c s) = arrivingAddress words s := by
  cases c <;> rfl

theorem takeFreeAddress_whole {words : List Word} (h : 2 ≤ words.length) (s : State) : takeFreeAddress words s = s :=
  if_neg (Nat.not_lt.2 h)

theorem takeFreeAddress_short {words : List Word} (h : words.length < 2) (s : State) :
    takeFreeAddress words s = { s with freeReads := s.freeReads + 1 } := if_pos h

/-! ## Checks 3 to 5 of R22 -/

/-- R22 row 4: the first address word, if it arrived, keeps the request inside its block. -/
def StaysInBlock (words : List Word) (length : Nat) : Prop :=
  ∀ (low : Word) (rest : List Word), words = low :: rest → low.toNat % 256 + length ≤ 256

theorem crossesBlock_eq_false {words : List Word} {length : Nat} (h : StaysInBlock words length) :
    crossesBlock words length = false := by
  cases words with
  | nil => rfl
  | cons low rest => exact decide_eq_false (Nat.not_lt.2 (h low rest rfl))

section Checks

variable {length carried : Nat} {words : List Word} {data : List Byte}

theorem accessFault_length (h : length = 0 ∨ 256 < length) : accessFault length words data carried = some .length := if_pos h

theorem accessFault_blockBoundary {low : Word} {rest : List Word} (hlow : 1 ≤ length) (hhigh : length ≤ 256)
    (hwords : words = low :: rest) (hcross : 256 < low.toNat % 256 + length) :
    accessFault length words data carried = some .blockBoundary := by
  subst hwords
  have hlength : ¬ (length = 0 ∨ 256 < length) := by omega
  simp [accessFault, hlength, crossesBlock, hcross]

/-- R22 row 5: what is left of the checks once the length and the block boundary are right. -/
theorem accessFault_inBlock (hlow : 1 ≤ length) (hhigh : length ≤ 256) (hblock : StaysInBlock words length) :
    accessFault length words data carried =
      if words.length < 2 ∨ data.length ≠ carried then some .dataCount else none := by
  have hlength : ¬ (length = 0 ∨ 256 < length) := by omega
  simp [accessFault, hlength, crossesBlock_eq_false hblock]

theorem accessFault_dataCount (hlow : 1 ≤ length) (hhigh : length ≤ 256) (hblock : StaysInBlock words length)
    (hframing : words.length < 2 ∨ data.length ≠ carried) : accessFault length words data carried = some .dataCount :=
  (accessFault_inBlock hlow hhigh hblock).trans (if_pos hframing)

theorem accessFault_none (hlow : 1 ≤ length) (hhigh : length ≤ 256) (hblock : StaysInBlock words length)
    (hwords : 2 ≤ words.length) (hdata : data.length = carried) : accessFault length words data carried = none :=
  (accessFault_inBlock hlow hhigh hblock).trans (if_neg (not_or.2 ⟨Nat.not_lt.2 hwords, not_not.2 hdata⟩))

end Checks

theorem staysInBlock_cons {low : Word} {length : Nat} (rest : List Word) (h : low.toNat % 256 + length ≤ 256) :
    StaysInBlock (low :: rest) length := by
  intro low' rest' heq
  cases heq
  exact h

theorem carriedBytes_eq (k : SlotKind) (length : Nat) :
    carriedBytes k length = if k = .nonPostedWrite ∨ k = .exclusiveWrite then length else 0 := by
  cases k <;> rfl

/-! ## Non-posted requests -/

section NonPosted

variable {a : Agent} {g : Tag} {s : State}

theorem admitNonPosted_duplicate (hid : peek s.ids (idIndex a g) = true) (kind : UpKind) (body : NonPostedBody) :
    admitNonPosted a g kind body s = storeRecord (.duplicateTag a g kind) s := if_pos hid

theorem admitNonPosted_overrun (hid : peek s.ids (idIndex a g) = false) (hfull : 16 ≤ s.nonPostedIntake.length)
    (kind : UpKind) (body : NonPostedBody) :
    admitNonPosted a g kind body s = storeRecord (.overrun a .nonPosted) s :=
  (if_neg (ne_true_of_eq_false hid)).trans (if_pos hfull)

theorem admitNonPosted_joins (hid : peek s.ids (idIndex a g) = false) (hroom : s.nonPostedIntake.length < 16)
    (kind : UpKind) (body : NonPostedBody) : admitNonPosted a g kind body s = joinNonPosted a g body s :=
  (if_neg (ne_true_of_eq_false hid)).trans (if_neg (Nat.not_le.2 hroom))

theorem arriveAccess_badAgent (k : SlotKind) (length : Nat) (words : List Word) (data : List Byte) {agent : BitVec 4}
    (hagent : 8 ≤ agent.toNat) (tag : BitVec 6) :
    arriveAccess k agent tag length words data s =
      storeRecord (.malformed .fieldRange none (tagOfField tag) (some (arrivingAddress words s))) s := by
  rw [arriveAccess, agentOfField_none hagent]
  rfl

theorem arriveAccess_badTag (k : SlotKind) (length : Nat) (words : List Word) (data : List Byte) (a : Agent) {tag : BitVec 6}
    (htag : 32 ≤ tag.toNat) :
    arriveAccess k (BitVec.ofNat 4 a.val) tag length words data s =
      storeRecord (.malformed .fieldRange (some a) none (some (arrivingAddress words s))) s := by
  rw [arriveAccess, agentOfField_ofNat, tagOfField_none htag]
  rfl

variable {k : SlotKind} {words : List Word} {data : List Byte}

theorem arriveAccess_fault {length : Nat} {cause : MalformedCause}
    (h : accessFault length words data (carriedBytes k length) = some cause) :
    arriveAccess k (BitVec.ofNat 4 a.val) (BitVec.ofNat 6 g.val) length words data s =
      storeRecord (.malformed cause (some a) (some g) (some (arrivingAddress words s))) s := by
  simp only [arriveAccess, agentOfField_ofNat, tagOfField_ofNat, h, dropMalformed]

theorem arriveAccess_admitted {length : Nat} (h : accessFault length words data (carriedBytes k length) = none) :
    arriveAccess k (BitVec.ofNat 4 a.val) (BitVec.ofNat 6 g.val) length words data s =
      admitNonPosted a g (upKindOf k) (.access k (arrivingAddress words s) length data) s := by
  simp only [arriveAccess, agentOfField_ofNat, tagOfField_ofNat, h]

variable {length : BitVec 9}

/-- A dropped packet leaves its record, and draws a free address if it was framed without its own (log 7). -/
theorem accessArrives_dropped {agent : BitVec 4} {tag : BitVec 6} {body : RecordBody}
    (h : arriveAccess k agent tag length.toNat words data (spendCredit .nonPosted s) =
      storeRecord body (spendCredit .nonPosted s)) :
    event (accessArrives k agent tag length words data) s =
      .next (raiseOnFirstRecord s (takeFreeAddress words (storeRecord body (spendCredit .nonPosted s)))) := by
  rw [event, accessArrives, h]

/-- R25, R26, R27: a packet that passes every check joins the intake, and its event makes no record. -/
theorem accessArrives_joins (hid : peek s.ids (idIndex a g) = false) (hroom : s.nonPostedIntake.length < 16)
    {low high : Word} (more : List Word) (hlow : 1 ≤ length.toNat) (hhigh : length.toNat ≤ 256)
    (hblock : low.toNat % 256 + length.toNat ≤ 256) (hdata : data.length = carriedBytes k length.toNat) :
    event (accessArrives k (BitVec.ofNat 4 a.val) (BitVec.ofNat 6 g.val) length (low :: high :: more) data) s =
      .next (joinNonPosted a g (.access k (high.extractLsb' 0 8 ++ low) length.toNat data) (spendCredit .nonPosted s)) := by
  have hwords : 2 ≤ (low :: high :: more).length := Nat.le_add_left 2 more.length
  have hpass : accessFault length.toNat (low :: high :: more) data (carriedBytes k length.toNat) = none :=
    accessFault_none hlow hhigh (staysInBlock_cons _ hblock) hwords hdata
  rw [event, accessArrives, arriveAccess_admitted hpass, arrivingAddress_whole, takeFreeAddress_whole hwords,
    admitNonPosted_joins (s := spendCredit .nonPosted s) hid hroom]
  exact congrArg Host.Outcome.next (raiseOnFirstRecord_same rfl)

variable {agent : BitVec 4} {tag : BitVec 6}

theorem arriveRelease_badAgent (hagent : 8 ≤ agent.toNat) :
    arriveRelease agent tag words data s = storeRecord (.malformed .fieldRange none (tagOfField tag) none) s := by
  rw [arriveRelease, agentOfField_none hagent]
  rfl

theorem arriveRelease_badTag (htag : 32 ≤ tag.toNat) :
    arriveRelease (BitVec.ofNat 4 a.val) tag words data s = storeRecord (.malformed .fieldRange (some a) none none) s := by
  rw [arriveRelease, agentOfField_ofNat, tagOfField_none htag]
  rfl

theorem framedAlone_iff : framedAlone words data = true ↔ words = [] ∧ data = [] := by simp [framedAlone]

/-- R185: a release framed with more than its word 0. -/
theorem arriveRelease_notAlone (h : words ≠ [] ∨ data ≠ []) :
    arriveRelease (BitVec.ofNat 4 a.val) (BitVec.ofNat 6 g.val) words data s =
      storeRecord (.malformed .dataCount (some a) (some g) none) s := by
  have hframed : ¬ framedAlone words data = true := by rwa [framedAlone_iff, not_and_or]
  simp only [arriveRelease, agentOfField_ofNat, tagOfField_ofNat, if_neg hframed, dropMalformed]

theorem arriveRelease_alone :
    arriveRelease (BitVec.ofNat 4 a.val) (BitVec.ofNat 6 g.val) [] [] s =
      admitNonPosted a g .exclusiveRelease .release s := by
  rw [arriveRelease, agentOfField_ofNat, tagOfField_ofNat]
  rfl

end NonPosted

/-- Settles O6. -/
theorem nonPostedRequestsJoinTheirIntake : Obligations.NonPostedRequestsJoinTheirIntake := by
  unfold Obligations.NonPostedRequestsJoinTheirIntake
  intro a g s hid hroom joined
  have hrelease : exec (.exclusiveRelease (BitVec.ofNat 4 a.val) (BitVec.ofNat 6 g.val) [] []) s =
      .next (raiseOnFirstRecord s (admitNonPosted a g .exclusiveRelease .release (spendCredit .nonPosted s))) :=
    congrArg (fun t => Host.Outcome.next (raiseOnFirstRecord s t)) arriveRelease_alone
  refine ⟨?_, fun length low high more hlow hhigh hblock => ⟨?_, ?_, fun data hdata => ⟨?_, ?_⟩⟩⟩
  · rw [hrelease, admitNonPosted_joins (s := spendCredit .nonPosted s) hid hroom]
    exact congrArg Host.Outcome.next (raiseOnFirstRecord_same rfl)
  · exact accessArrives_joins (k := .read) hid hroom more hlow hhigh hblock rfl
  · exact accessArrives_joins (k := .exclusiveRead) hid hroom more hlow hhigh hblock rfl
  · exact accessArrives_joins (k := .nonPostedWrite) hid hroom more hlow hhigh hblock hdata
  · exact accessArrives_joins (k := .exclusiveWrite) hid hroom more hlow hhigh hblock hdata

/-! ## Posted writes -/

section Posted

variable {a : Agent} {words : List Word} {data : List Byte} {s : State}

theorem arrivePosted_badAgent {agent : BitVec 4} (hagent : 8 ≤ agent.toNat) (length : Nat) :
    arrivePosted agent length words data s =
      storeRecord (.malformed .fieldRange none none (some (arrivingAddress words s))) s := by
  rw [arrivePosted, agentOfField_none hagent]
  rfl

theorem arrivePosted_fault {length : Nat} {cause : MalformedCause} (h : accessFault length words data length = some cause) :
    arrivePosted (BitVec.ofNat 4 a.val) length words data s =
      storeRecord (.malformed cause (some a) none (some (arrivingAddress words s))) s := by
  simp only [arrivePosted, agentOfField_ofNat, h, dropMalformed]

theorem arrivePosted_overrun {length : Nat} (h : accessFault length words data length = none)
    (hfull : 16 ≤ s.postedIntake.length) :
    arrivePosted (BitVec.ofNat 4 a.val) length words data s = storeRecord (.overrun a .posted) s := by
  simp only [arrivePosted, agentOfField_ofNat, h]
  exact if_pos hfull

theorem arrivePosted_joins {length : Nat} (h : accessFault length words data length = none)
    (hroom : s.postedIntake.length < 16) :
    arrivePosted (BitVec.ofNat 4 a.val) length words data s = joinPosted a (arrivingAddress words s) length data s := by
  simp only [arrivePosted, agentOfField_ofNat, h]
  exact if_neg (Nat.not_le.2 hroom)

/-- A dropped posted write leaves its record, and draws a free address if it was framed without its own (log 7). -/
theorem execPostedWrite_dropped {agent : BitVec 4} {length : BitVec 9} {body : RecordBody}
    (h : arrivePosted agent length.toNat words data (spendCredit .posted s) = storeRecord body (spendCredit .posted s)) :
    exec (.postedWrite agent length words data) s =
      .next (raiseOnFirstRecord s (takeFreeAddress words (storeRecord body (spendCredit .posted s)))) :=
  congrArg (fun t => Host.Outcome.next (raiseOnFirstRecord s (takeFreeAddress words t))) h

end Posted

/-- Settles O5. -/
theorem postedWriteJoinsItsIntake : Obligations.PostedWriteJoinsItsIntake := by
  unfold Obligations.PostedWriteJoinsItsIntake
  intro a length low high more data s hlow hhigh hblock hdata hroom joined
  have hwords : 2 ≤ (low :: high :: more).length := Nat.le_add_left 2 more.length
  have hpass : accessFault length.toNat (low :: high :: more) data length.toNat = none :=
    accessFault_none hlow hhigh (staysInBlock_cons _ hblock) hwords hdata
  have hjoin : takeFreeAddress (low :: high :: more)
      (arrivePosted (BitVec.ofNat 4 a.val) length.toNat (low :: high :: more) data (spendCredit .posted s)) =
        if s.postedIntake.isEmpty then exitHeadsAndTest joined else joined := by
    rw [arrivePosted_joins (s := spendCredit .posted s) hpass hroom, takeFreeAddress_whole hwords]
    rfl
  have harrives : exec (.postedWrite (BitVec.ofNat 4 a.val) length (low :: high :: more) data) s =
      .next (raiseOnFirstRecord s (if s.postedIntake.isEmpty then exitHeadsAndTest joined else joined)) :=
    congrArg (fun t => Host.Outcome.next (raiseOnFirstRecord s t)) hjoin
  rw [harrives]
  simp only [List.isEmpty_iff]
  split
  · rfl
  · exact congrArg Host.Outcome.next (raiseOnFirstRecord_same rfl)

/-! ## Management requests -/

section Management

variable {a : Agent} {g : Tag} {tag : BitVec 6} {operation : BitVec 4} {index : BitVec 7} {words : List Word}
  {data : List Byte} {s : State}

theorem indexOfField_some (h : index.toNat < 64) : indexOfField index = some (index.setWidth 6) := if_pos h

theorem indexOfField_none (h : 64 ≤ index.toNat) : indexOfField index = none := if_neg (Nat.not_lt.2 h)

theorem arriveManagement_badAgent {agent : BitVec 4} (hagent : 8 ≤ agent.toNat) :
    arriveManagement agent tag operation index words data s =
      storeRecord (.malformed .fieldRange none (tagOfField tag) none) s := by
  rw [arriveManagement, agentOfField_none hagent]
  rfl

theorem arriveManagement_badTag (htag : 32 ≤ tag.toNat) :
    arriveManagement (BitVec.ofNat 4 a.val) tag operation index words data s =
      storeRecord (.malformed .fieldRange (some a) none none) s := by
  rw [arriveManagement, agentOfField_ofNat, tagOfField_none htag]
  rfl

/-- R22 row 2: an index out of range, or more operand words than an operation takes. -/
theorem arriveManagement_badOperands (h : 64 ≤ index.toNat ∨ 4 < words.length) :
    arriveManagement (BitVec.ofNat 4 a.val) (BitVec.ofNat 6 g.val) operation index words data s =
      storeRecord (.malformed .fieldRange (some a) (some g) none) s := by
  rw [arriveManagement, agentOfField_ofNat, tagOfField_ofNat]
  by_cases hindex : index.toNat < 64
  · rw [indexOfField_some hindex]
    exact if_pos (h.resolve_left (Nat.not_le.2 hindex))
  · rw [indexOfField_none (Nat.not_lt.1 hindex)]
    rfl

/-- R22 row 5: what is left of the checks once the index and the operand words are right. -/
theorem arriveManagement_inRange (hindex : index.toNat < 64) (hwords : words.length ≤ 4) :
    arriveManagement (BitVec.ofNat 4 a.val) (BitVec.ofNat 6 g.val) operation index words data s =
      if data ≠ [] then storeRecord (.malformed .dataCount (some a) (some g) none) s
      else admitManagement
        { agent := a, tag := g, operation, index := index.setWidth 6, words, arrival := s.arrivalCounter } s := by
  rw [arriveManagement, agentOfField_ofNat, tagOfField_ofNat, indexOfField_some hindex]
  exact if_neg (Nat.not_lt.2 hwords)

variable {e : ManagementEntry}

theorem admitManagement_duplicate (hid : peek s.ids (idIndex e.agent e.tag) = true) :
    admitManagement e s = storeRecord (.duplicateTag e.agent e.tag .managementRequest) s := if_pos hid

theorem admitManagement_overrun (hid : peek s.ids (idIndex e.agent e.tag) = false) (hfull : 2 ≤ s.managementIntake.length) :
    admitManagement e s = storeRecord (.overrun e.agent .management) s :=
  (if_neg (ne_true_of_eq_false hid)).trans (if_pos hfull)

theorem admitManagement_joins (hid : peek s.ids (idIndex e.agent e.tag) = false) (hroom : s.managementIntake.length < 2) :
    admitManagement e s = joinManagement e s :=
  (if_neg (ne_true_of_eq_false hid)).trans (if_neg (Nat.not_le.2 hroom))

theorem takeManagementHead_takes {rest : List ManagementEntry} (hidle : s.current = none)
    (hintake : s.managementIntake = e :: rest) :
    takeManagementHead s =
      { s with managementIntake := rest, current := some e, egress := s.egress ++ [.creditReturn .management] } := by
  simp only [takeManagementHead, hidle, hintake]
  rfl

theorem takeManagementHead_busy (hbusy : s.current ≠ none) : takeManagementHead s = s := by
  obtain ⟨r, hr⟩ := Option.ne_none_iff_exists'.1 hbusy
  simp only [takeManagementHead, hr]

/-- R161: a request that joins an empty intake of an idle unit is taken at once, and stays in the intake otherwise. -/
theorem joinManagement_eq (e : ManagementEntry) (s : State) :
    joinManagement e s =
      if s.managementIntake = [] ∧ s.current = none then
        { takeNumber (takeIdentifier e.agent e.tag s) with
          current := some e, egress := s.egress ++ [.creditReturn .management] }
      else { takeNumber (takeIdentifier e.agent e.tag s) with managementIntake := s.managementIntake ++ [e] } := by
  unfold joinManagement
  dsimp only
  by_cases hempty : s.managementIntake = []
  · by_cases hidle : s.current = none
    · have htake := takeManagementHead_takes (e := e) (rest := [])
        (s := takeNumber (takeIdentifier e.agent e.tag { s with managementIntake := s.managementIntake ++ [e] }))
        hidle (by rw [takeNumber_managementIntake, takeIdentifier_managementIntake, hempty]; rfl)
      rw [if_pos (List.isEmpty_iff.2 hempty), htake, if_pos (And.intro hempty hidle), ← hempty]
      rfl
    · have hbusy := takeManagementHead_busy
        (s := takeNumber (takeIdentifier e.agent e.tag { s with managementIntake := s.managementIntake ++ [e] })) hidle
      rw [if_pos (List.isEmpty_iff.2 hempty), hbusy, if_neg (not_and_of_not_right _ hidle)]
      rfl
  · rw [if_neg (mt List.isEmpty_iff.1 hempty), if_neg (not_and_of_not_left _ hempty)]
    rfl

end Management

/-- Settles O7. -/
theorem managementRequestsAreTakenInTurn : Obligations.ManagementRequestsAreTakenInTurn := by
  unfold Obligations.ManagementRequestsAreTakenInTurn
  refine ⟨fun a g operation index words s hindex hwords hid hroom => ?_, fun e rest s hidle hintake => ?_⟩
  · intro e numbered
    have hjoin : arriveManagement (BitVec.ofNat 4 a.val) (BitVec.ofNat 6 g.val) operation index words []
        (spendCredit .management s) = joinManagement e (spendCredit .management s) := by
      rw [arriveManagement_inRange hindex hwords, if_neg (not_not.2 rfl)]
      exact admitManagement_joins hid hroom
    have harrives : exec (.managementRequest (BitVec.ofNat 4 a.val) (BitVec.ofNat 6 g.val) operation index words []) s =
        .next (raiseOnFirstRecord s (joinManagement e (spendCredit .management s))) :=
      congrArg (fun t => Host.Outcome.next (raiseOnFirstRecord s t)) hjoin
    rw [harrives, joinManagement_eq]
    refine congrArg Host.Outcome.next ?_
    rw [raiseOnFirstRecord_same (by split <;> rfl)]
    rfl
  · exact congrArg Host.Outcome.next (takeManagementHead_takes hidle hintake)

/-! ## Service Done -/

section ServiceDone

variable {a : Agent} {vector : BitVec 7} {words : List Word} {data : List Byte} {s : State}

theorem arriveServiceDone_badAgent {agent : BitVec 4} (hagent : 8 ≤ agent.toNat) :
    arriveServiceDone agent vector words data s = storeRecord (.malformed .fieldRange none none none) s := by
  rw [arriveServiceDone, agentOfField_none hagent]
  rfl

theorem arriveServiceDone_badVector (hvector : 64 ≤ vector.toNat) :
    arriveServiceDone (BitVec.ofNat 4 a.val) vector words data s =
      storeRecord (.malformed .fieldRange (some a) none none) s := by
  rw [arriveServiceDone, agentOfField_ofNat, vectorOfField_none hvector]
  rfl

/-- R185: a Service Done framed with more than its word 0. -/
theorem arriveServiceDone_notAlone (hvector : vector.toNat < 64) (h : words ≠ [] ∨ data ≠ []) :
    arriveServiceDone (BitVec.ofNat 4 a.val) vector words data s =
      storeRecord (.malformed .dataCount (some a) none none) s := by
  have hframed : ¬ framedAlone words data = true := by rwa [framedAlone_iff, not_and_or]
  have hfield : vectorOfField vector = some ⟨vector.toNat, hvector⟩ := dif_pos hvector
  rw [arriveServiceDone, agentOfField_ofNat, hfield]
  exact if_neg hframed

end ServiceDone

/-! ## Every check of every packet -/

theorem exec_unknownKindPacket (kind agent : BitVec 4) (s : State) :
    exec (.unknownKindPacket kind agent) s =
      .next (raiseOnFirstRecord s (storeRecord (.malformed .unknownKind (agentOfField agent) none none) s)) := rfl

/-- Settles O8. -/
theorem failedChecksDropThePacket : Obligations.FailedChecksDropThePacket := by
  unfold Obligations.FailedChecksDropThePacket
  refine ⟨fun words s => ⟨?_, ?_, fun h => takeFreeAddress_short h s⟩, fun f => rfl, fun kind a s => ?_,
    fun kind agent s hagent => ?_, ?_, ?_, ?_, ?_, ?_⟩
  · rintro low high more rfl
    exact ⟨arrivingAddress_whole low high more s, takeFreeAddress_whole (words := low :: high :: more) (Nat.le_add_left 2 _) s⟩
  · rintro low rfl
    exact arrivingAddress_lowWord low s
  · rw [exec_unknownKindPacket, agentOfField_ofNat]
  · rw [exec_unknownKindPacket, agentOfField_none hagent]
  · intro k agent tag length words data s packet carried spent dropped addr
    have hdrop : ∀ {body}, arriveAccess k agent tag length.toNat words data spent = storeRecord body spent →
        exec packet s = dropped body := by
      intro body h
      have hexec : exec packet s = event (accessArrives k agent tag length words data) s := by cases k <;> rfl
      exact hexec.trans (accessArrives_dropped h)
    have haddr : addr = arrivingAddress words spent := (arrivingAddress_spendCredit words .nonPosted s).symm
    have hcarried : carried = carriedBytes k length.toNat := (carriedBytes_eq k _).symm
    rw [haddr, hcarried]
    refine ⟨fun hagent => hdrop (arriveAccess_badAgent k _ words data hagent tag), ?_⟩
    rintro a rfl
    refine ⟨fun htag => hdrop (arriveAccess_badTag k _ words data a htag), ?_⟩
    rintro g rfl
    refine ⟨fun h => hdrop (arriveAccess_fault (accessFault_length h)), fun hlow hhigh => ⟨fun low rest hwords hcross => ?_,
      fun hblock => ⟨fun hframing => ?_, fun hwords hdata => ?_⟩⟩⟩
    · exact hdrop (arriveAccess_fault (accessFault_blockBoundary hlow hhigh hwords hcross))
    · exact hdrop (arriveAccess_fault (accessFault_dataCount hlow hhigh hblock hframing))
    · have hpass := arriveAccess_admitted (a := a) (g := g) (s := spent)
        (accessFault_none hlow hhigh hblock hwords hdata)
      exact ⟨fun hid => hdrop (hpass.trans (admitNonPosted_duplicate (s := spent) hid _ _)),
        fun hid hfull => hdrop (hpass.trans (admitNonPosted_overrun (s := spent) hid hfull _ _))⟩
  · intro agent length words data s packet spent dropped addr
    have hdrop : ∀ {body}, arrivePosted agent length.toNat words data spent = storeRecord body spent →
        exec packet s = dropped body := execPostedWrite_dropped
    have haddr : addr = arrivingAddress words spent := (arrivingAddress_spendCredit words .posted s).symm
    rw [haddr]
    refine ⟨fun hagent => hdrop (arrivePosted_badAgent hagent _), ?_⟩
    rintro a rfl
    refine ⟨fun h => hdrop (arrivePosted_fault (accessFault_length h)), fun hlow hhigh => ⟨fun low rest hwords hcross => ?_,
      fun hblock => ⟨fun hframing => ?_, fun hwords hdata hfull => ?_⟩⟩⟩
    · exact hdrop (arrivePosted_fault (accessFault_blockBoundary hlow hhigh hwords hcross))
    · exact hdrop (arrivePosted_fault (accessFault_dataCount hlow hhigh hblock hframing))
    · exact hdrop (arrivePosted_overrun (accessFault_none hlow hhigh hblock hwords hdata) hfull)
  · intro agent tag words data s packet spent dropped
    have hdrop : ∀ {body}, arriveRelease agent tag words data spent = storeRecord body spent → exec packet s = dropped body :=
      fun h => congrArg (fun t => Host.Outcome.next (raiseOnFirstRecord s t)) h
    refine ⟨fun hagent => hdrop (arriveRelease_badAgent hagent), ?_⟩
    rintro a rfl
    refine ⟨fun htag => hdrop (arriveRelease_badTag htag), ?_⟩
    rintro g rfl
    refine ⟨fun h => hdrop (arriveRelease_notAlone h), ?_⟩
    rintro rfl rfl
    exact ⟨fun hid => hdrop (arriveRelease_alone.trans (admitNonPosted_duplicate (s := spent) hid _ _)),
      fun hid hfull => hdrop (arriveRelease_alone.trans (admitNonPosted_overrun (s := spent) hid hfull _ _))⟩
  · intro agent tag operation index words data s packet spent dropped
    have hdrop : ∀ {body}, arriveManagement agent tag operation index words data spent = storeRecord body spent →
        exec packet s = dropped body := fun h => congrArg (fun t => Host.Outcome.next (raiseOnFirstRecord s t)) h
    refine ⟨fun hagent => hdrop (arriveManagement_badAgent hagent), ?_⟩
    rintro a rfl
    refine ⟨fun htag => hdrop (arriveManagement_badTag htag), ?_⟩
    rintro g rfl
    refine ⟨fun h => hdrop (arriveManagement_badOperands h), fun hindex hwords => ⟨fun hdata => ?_, fun hdata => ?_⟩⟩
    · exact hdrop ((arriveManagement_inRange hindex hwords).trans (if_pos hdata))
    · have hpass := (arriveManagement_inRange (a := a) (g := g) (operation := operation) (s := spent) hindex hwords).trans
        (if_neg (not_not.2 hdata))
      exact ⟨fun hid => hdrop (hpass.trans (admitManagement_duplicate hid)),
        fun hid hfull => hdrop (hpass.trans (admitManagement_overrun hid hfull))⟩
  · intro agent vector words data s packet dropped
    have hdrop : ∀ {body}, arriveServiceDone agent vector words data s = storeRecord body s → exec packet s = dropped body :=
      fun h => congrArg (fun t => Host.Outcome.next (raiseOnFirstRecord s t)) h
    refine ⟨fun hagent => hdrop (arriveServiceDone_badAgent hagent), ?_⟩
    rintro a rfl
    exact ⟨fun hvector => hdrop (arriveServiceDone_badVector hvector),
      fun hvector h => hdrop (arriveServiceDone_notAlone hvector h)⟩

end Sys2Proof.Machine
end

section
/-! PROOFS. The entry that leaves the non-posted intake (R26, R31, R32), the bridge time (R182) and the egress queue (R36). -/

namespace Sys2Proof.Machine

/-! ## Eligible entries (R31) -/

theorem mayLeave_release {e : NonPostedEntry} (s : State) (h : e.body = .release) : mayLeave s e = true := by
  simp only [mayLeave, h]

section Access

variable {e : NonPostedEntry} {k : SlotKind} {a : Addr} {n : Nat} {data : List Byte} {s : State}

/-- R31, R34: an entry that needs no slot is eligible. -/
theorem mayLeave_answered (h : e.body = .access k a n data) (hd : ∀ r, decode (.nonPosted k) e.agent a n s ≠ .work r) :
    mayLeave s e = true := by
  simp only [mayLeave, h]
  split
  · next r hr => exact absurd hr (hd r)
  all_goals rfl

theorem mayLeave_work {r : DecodeRecord} (h : e.body = .access k a n data)
    (hr : decode (.nonPosted k) e.agent a n s = .work r) : mayLeave s e = slotAvailable e.agent s := by
  simp only [mayLeave, h, hr]

end Access

theorem slotAvailable_owner {a : Agent} {s : State} (h : ownsLock a s = true) :
    slotAvailable a s = true ↔ 0 < freeCount s := by simp [slotAvailable, h]

theorem slotAvailable_other {a : Agent} {s : State} (h : ¬ ownsLock a s = true) :
    slotAvailable a s = true ↔ lockedPorts s < freeCount s := by simp [slotAvailable, h]

theorem lockedPorts_eq (s : State) :
    lockedPorts s = (List.finRange 4).countP (fun p => decide (peek s.locks p ≠ .opened)) := by
  refine List.countP_congr (fun p _ => ?_)
  cases peek s.locks p <;> simp [lockOwner]

/-! ## The oldest of them (R26, R32) -/

theorem olderEntry_eq :
    olderEntry = fun best x => if 0 < (best.arrival - x.arrival).toInt then x else best := by
  funext best x
  unfold olderEntry earlier
  simp only [decide_eq_true_eq]

theorem oldestEligible_none {s : State} (h : ∀ e ∈ s.nonPostedIntake, mayLeave s e = false) : oldestEligible s = none := by
  have hnil : s.nonPostedIntake.filter (mayLeave s) = [] :=
    List.filter_eq_nil_iff.2 (fun e he => ne_true_of_eq_false (h e he))
  rw [oldestEligible, hnil]
  rfl

theorem oldestEligible_cons {first : NonPostedEntry} {rest : List NonPostedEntry} {s : State}
    (h : s.nonPostedIntake.filter (mayLeave s) = first :: rest) : oldestEligible s = some (rest.foldl olderEntry first) := by
  rw [oldestEligible, h]
  rfl

/-- R32: what the exit does once the oldest eligible entry is known. -/
theorem exec_nonPostedIntakeExit {e : NonPostedEntry} {s : State} (h : oldestEligible s = some e) :
    exec .nonPostedIntakeExit s = .next (raiseOnFirstRecord s (exitNonPosted e s)) := by
  have hexec : exec .nonPostedIntakeExit s = execNonPostedIntakeExit s := rfl
  rw [hexec, execNonPostedIntakeExit, h]
  rfl

theorem exec_nonPostedIntakeExit_none {s : State} (h : oldestEligible s = none) : exec .nonPostedIntakeExit s = .next s := by
  have hexec : exec .nonPostedIntakeExit s = execNonPostedIntakeExit s := rfl
  rw [hexec, execNonPostedIntakeExit, h]

/-- Settles O16: an entry that is earlier than every other one is where the comparison of R26 ends, taken over the entries in
their places. -/
theorem oldestEligibleEntryLeaves : Obligations.OldestEligibleEntryLeaves := by
  unfold Obligations.OldestEligibleEntryLeaves
  refine ⟨fun s h => exec_nonPostedIntakeExit_none (oldestEligible_none h), ?_, fun e s => ⟨mayLeave_release s, ?_⟩⟩
  · intro first e rest s hfilter hold left
    have hfold : rest.foldl olderEntry first = e := by
      obtain heq | ⟨hmem, hearliest⟩ := hold
      · rw [heq, olderEntry_eq]
      · exact foldl_olderEntry hmem (fun x hx hne => decide_eq_true (hearliest x hx hne))
    have hexec := exec_nonPostedIntakeExit ((oldestEligible_cons hfilter).trans (congrArg some hfold))
    refine ⟨fun hbody => ?_, fun k a n data hbody => ?_⟩
    · rw [hexec, exitNonPosted, hbody]
      rfl
    · rw [hexec, exitNonPosted, hbody]
      rfl
  · intro k a n data hbody
    refine ⟨mayLeave_answered hbody, fun r hr => ?_⟩
    rw [mayLeave_work hbody hr]
    intro free locked owner
    have howner : owner ↔ ownsLock e.agent s = true := by
      rw [ownsLock_iff]
      exact exists_congr (fun p => or_comm)
    have hlocked : locked = lockedPorts s := (lockedPorts_eq s).symm
    rw [howner, hlocked]
    exact ⟨slotAvailable_owner, slotAvailable_other⟩

/-! ## The bridge time and the egress queue -/

theorem exec_egressTransmission {x : EgressPacket} {rest : List EgressPacket} {s : State} (h : s.egress = x :: rest) :
    exec .egressTransmission s =
      .next { s with
        egress := rest, upstreamLink := s.upstreamLink ++ [x], agentCredits := creditsAfter x s.agentCredits } := by
  have hexec : exec .egressTransmission s = execEgressTransmission s := rfl
  rw [hexec, execEgressTransmission, h]

theorem exec_egressTransmission_empty {s : State} (h : s.egress = []) : exec .egressTransmission s = .next s := by
  have hexec : exec .egressTransmission s = execEgressTransmission s := rfl
  rw [hexec, execEgressTransmission, h]

/-- R28: a packet that is no credit return gives the agents no credit. -/
theorem creditsAfter_other {x : EgressPacket} (k : AgentCredits) (h : ∀ c, x ≠ .creditReturn c) : creditsAfter x k = k := by
  cases x with
  | completion c => rfl
  | interrupt a v => rfl
  | creditReturn c => exact absurd rfl (h c)

/-- Settles O36. -/
theorem timeAdvancesAndEgressIsInOrder : Obligations.TimeAdvancesAndEgressIsInOrder := by
  unfold Obligations.TimeAdvancesAndEgressIsInOrder
  refine ⟨fun s => rfl, fun s => exec_egressTransmission_empty, fun x rest s hegress hother => ?_, fun c rest s hegress => ?_⟩
  · rw [exec_egressTransmission hegress, creditsAfter_other s.agentCredits hother]
  · rw [exec_egressTransmission hegress]
    cases c <;> rfl

end Sys2Proof.Machine
end

section
/-! PROOFS. The first state of a slot: its lock, its claim, its fence and its place in a list (R58, R59, R79, R80, R112). -/

namespace Sys2Proof.Machine

/-! ## LOCK_WAIT (R58 case 1) -/

theorem enterLockWait_eq {i : SlotId} {u : SlotUse} {s : State} (hu : slotUse s i = some u) :
    enterLockWait i s =
      { s with
        slots := poke s.slots i { epoch := (peek s.slots i).epoch, use := some { u with state := .lockWait } }
        waiting := poke s.waiting u.port (insertByArrival (arrivalOf s) i (peek s.waiting u.port)) } := by
  simp only [enterLockWait, hu, arrivalOf_putUse (v := { u with state := .lockWait }) hu rfl]
  rfl

/-! ## The fence (R58 case 3, R79, R80) -/

theorem meetFence_waits {i : SlotId} {u : SlotUse} {s : State} (hu : slotUse s i = some u)
    (h : mustWaitAtFence u s = true) :
    meetFence i s =
      { s with
        slots := poke s.slots i { epoch := (peek s.slots i).epoch, use := some { u with state := .fenceWait } }
        fenceOrder := insertByArrival (arrivalOf s) i s.fenceOrder } := by
  simp only [meetFence, hu, h, if_true, enterFenceWait, arrivalOf_putUse (v := { u with state := .fenceWait }) hu rfl]
  rfl

theorem meetFence_passes {i : SlotId} {u : SlotUse} {s : State} (hu : slotUse s i = some u)
    (h : ¬ mustWaitAtFence u s = true) : meetFence i s = readyPoint i s := by
  simp only [meetFence, hu, if_neg h]

/-! ## The claim (R58 case 2, R59, R112) -/

theorem firstState_covered {i : SlotId} {u : SlotUse} {s : State} (h : waitsForLock u s = true) :
    firstState i u s = enterLockWait i s := if_pos h

theorem firstState_claims {i : SlotId} {u : SlotUse} {s : State} (h : ¬ waitsForLock u s = true)
    (hkind : u.kind = .exclusiveRead) (hlock : peek s.locks u.port = .opened) :
    firstState i u s = meetFence i (claimLock u.port i u s) := by
  simp only [firstState, if_neg h, hkind, hlock]

theorem firstState_other {i : SlotId} {u : SlotUse} {s : State} (h : ¬ waitsForLock u s = true)
    (hother : u.kind ≠ .exclusiveRead ∨ peek s.locks u.port ≠ .opened) : firstState i u s = meetFence i s := by
  rw [firstState, if_neg h]
  split
  · next hkind hlock => exact absurd hother (not_or.2 ⟨not_not.2 hkind, not_not.2 hlock⟩)
  · rfl

/-- R112: a slot of the port, another agent's and later than the claim, in a given state. -/
def claimMoves (p : Port) (u : SlotUse) (s : State) (st : SlotState) (j : SlotId) : Bool :=
  match slotUse s j with
  | some w => decide (w.port = p ∧ w.agent ≠ u.agent ∧ 0 < (w.arrival - u.arrival).toInt ∧ w.state = st)
  | none => false

theorem claimMoves_iff {p : Port} {u : SlotUse} {s : State} {st : SlotState} {j : SlotId} :
    claimMoves p u s st j = true ↔
      ∃ w, slotUse s j = some w ∧ w.port = p ∧ w.agent ≠ u.agent ∧ 0 < (w.arrival - u.arrival).toInt ∧ w.state = st := by
  unfold claimMoves
  cases slotUse s j <;> simp [-BitVec.toInt_sub]

/-- R59: the slots a claim moves are those in FENCE_WAIT and those in READY. -/
theorem movedByClaim_eq (p : Port) (u : SlotUse) (s : State) (j : SlotId) :
    movedByClaim p u.agent u.arrival s j = (claimMoves p u s .fenceWait j || claimMoves p u s .ready j) := by
  unfold movedByClaim claimMoves
  cases slotUse s j with
  | none => rfl
  | some w =>
    rw [Bool.eq_iff_iff]
    simp only [movable, earlier, Bool.and_eq_true, Bool.or_eq_true, decide_eq_true_eq]
    tauto

theorem movableIn_of_moved {p : Port} {u : SlotUse} {s : State} {j : SlotId}
    (h : (claimMoves p u s .fenceWait j || claimMoves p u s .ready j) = true) : movableIn p s j := by
  obtain h | h := Bool.or_eq_true_iff.1 h
  · obtain ⟨w, hw, hport, -, -, hstate⟩ := claimMoves_iff.1 h
    exact ⟨w, hw, hport, .inl hstate⟩
  · obtain ⟨w, hw, hport, -, -, hstate⟩ := claimMoves_iff.1 h
    exact ⟨w, hw, hport, .inr hstate⟩

/-- A slot among the moved ones is in the state that `claimMoves` names. -/
theorem moved_inState (p : Port) (u : SlotUse) (s : State) (st : SlotState) (hst : st = .fenceWait ∨ st = .ready)
    (j : SlotId) :
    ((claimMoves p u s .fenceWait j || claimMoves p u s .ready j) && inState s st j) = claimMoves p u s st j := by
  unfold claimMoves inState
  cases slotUse s j with
  | none => rfl
  | some w =>
    rw [Bool.eq_iff_iff]
    simp only [Bool.and_eq_true, Bool.or_eq_true, decide_eq_true_eq, Option.map_some, Option.some.injEq]
    constructor
    · rintro ⟨⟨hport, hagent, hlater, -⟩ | ⟨hport, hagent, hlater, -⟩, hstate⟩ <;> exact ⟨hport, hagent, hlater, hstate⟩
    · rintro ⟨hport, hagent, hlater, rfl⟩
      exact ⟨hst.imp (fun h => ⟨hport, hagent, hlater, h⟩) (fun h => ⟨hport, hagent, hlater, h⟩), rfl⟩

/-- R59, R112: a claim, and the slots that it moves one after another. -/
theorem claimLock_moves (p : Port) (i : SlotId) (u : SlotUse) (s : State) :
    claimLock p i u s =
      movedToLockWait p (allSlots.filter (fun j => claimMoves p u s .fenceWait j || claimMoves p u s .ready j))
        (putLock p (.claimed u.agent u.arrival i) s) := by
  have hmoved : allSlots.filter (movedByClaim p u.agent u.arrival (putLock p (.claimed u.agent u.arrival i) s)) =
      allSlots.filter (fun j => claimMoves p u s .fenceWait j || claimMoves p u s .ready j) :=
    List.filter_congr (fun j _ => movedByClaim_eq p u (putLock p (.claimed u.agent u.arrival i) s) j)
  rw [claimLock, hmoved]
  exact moveToLockWait_foldl p _ _ ((List.nodup_finRange 64).filter _)
    (fun j hj => movableIn_of_moved (List.mem_filter.1 hj).2)

/-- R59, R112: the whole effect of a claim. -/
theorem claimLock_eq (p : Port) (i : SlotId) (u : SlotUse) (s : State) :
    claimLock p i u s =
      { s with
        locks := poke s.locks p (.claimed u.agent u.arrival i)
        slots := Vector.ofFn (fun j =>
          if claimMoves p u s .fenceWait j || claimMoves p u s .ready j then lockWaiting s j else peek s.slots j)
        waiting := poke s.waiting p
          (mergeByArrival (arrivalOf s)
            (allSlots.filter (fun j => claimMoves p u s .fenceWait j || claimMoves p u s .ready j)) (peek s.waiting p))
        fenceOrder := s.fenceOrder.filter (fun j => !claimMoves p u s .fenceWait j)
        dispatch := poke s.dispatch p ((peek s.dispatch p).filter (fun j => !claimMoves p u s .ready j)) } := by
  have hmem : ∀ j, (j ∈ allSlots.filter (fun j => claimMoves p u s .fenceWait j || claimMoves p u s .ready j)) =
      ((claimMoves p u s .fenceWait j || claimMoves p u s .ready j) = true) := by
    intro j
    simp [allSlots]
  have hstate : ∀ st j, inState (putLock p (.claimed u.agent u.arrival i) s) st j = inState s st j := fun _ _ => rfl
  rw [claimLock_moves]
  unfold movedToLockWait
  simp only [hmem, Bool.decide_eq_true, hstate, moved_inState p u s .fenceWait (.inl rfl),
    moved_inState p u s .ready (.inr rfl)]
  rfl

/-- Settles O20. -/
theorem firstStateFollowsTheCases : Obligations.FirstStateFollowsTheCases := by
  unfold Obligations.FirstStateFollowsTheCases
  refine ⟨fun i u s hu => ?_, fun number i others list => ?_, fun i u s => arrivalOf_some, fun p i u s => ?_⟩
  · intro lock covered
    have hcovered : covered ↔ waitsForLock u s = true := (waitsForLock_iff u s).symm
    refine ⟨fun h => ?_, fun h => firstState_claims (mt hcovered.2 h), fun h => firstState_other (mt hcovered.2 h), ?_⟩
    · rw [firstState_covered (hcovered.1 h), enterLockWait_eq hu]
    · intro fenced waits
      have hwaits : fenced ∧ waits ↔ mustWaitAtFence u s = true := (mustWaitAtFence_iff u s).symm
      exact ⟨fun hf hw => meetFence_waits hu (hwaits.1 ⟨hf, hw⟩), fun h => meetFence_passes hu (mt hwaits.2 h)⟩
  · intro notLater
    have hnotLater : (fun j => !earlier (number i) (number j)) = notLater := funext (fun j => not_earlier_eq _ _)
    rw [insertByArrival_eq, hnotLater]
    exact ⟨rfl, rfl, by rw [mergeByArrival, List.foldl_cons, insertByArrival_eq, hnotLater]; rfl⟩
  · intro movesFrom moves
    exact claimLock_eq p i u s

end Sys2Proof.Machine
end

section
/-! PROOFS. R43 and R51, in one queue and in a state: what joins a queue, is sent from it, retired or discarded leaves its Sent
entries the oldest ones and consecutively numbered. -/

namespace Sys2Proof.Machine

/-! ## One queue (R43) -/

theorem sentInOrder_empty {q : PostedQueue} (h : q.entries = []) : SentInOrder q :=
  ⟨[], [], h, by simp, by simp⟩

/-- R42: an entry that joins the tail is Queued. -/
theorem SentInOrder.join {q : PostedQueue} {e : QueueEntry} (h : SentInOrder q) (he : e.sent = none) :
    SentInOrder { q with entries := q.entries ++ [e] } := by
  obtain ⟨sent, queued, hq, hqueued, hsent⟩ := h
  refine ⟨sent, queued ++ [e], by simp [hq], fun x hx => ?_, hsent⟩
  obtain hx | hx := List.mem_append.1 hx
  · exact hqueued x hx
  · rw [List.mem_singleton.1 hx, he]

/-- A Sent entry is numbered, so it is not Queued. -/
theorem sent_ne_none {q : PostedQueue} {sent : List QueueEntry}
    (h : ∀ k (hk : k < sent.length), (sent[k]'hk).sent = some (q.nextSeq - BitVec.ofNat 16 (sent.length - k))) :
    ∀ x ∈ sent, x.sent ≠ none := by
  intro x hx
  obtain ⟨k, hk, rfl⟩ := List.mem_iff_getElem.1 hx
  rw [h k hk]
  exact Option.some_ne_none _

/-- R45: the oldest Queued entry takes the next number, so the Sent entries stay the oldest ones. -/
theorem SentInOrder.send {q : PostedQueue} {e : QueueEntry} (h : SentInOrder q) (he : e ∈ q.entries) (hn : e.sent = none) :
    SentInOrder { entries := markSent q.nextSeq q.entries, nextSeq := q.nextSeq + 1 } := by
  obtain ⟨sent, queued, hq, hqueued, hsent⟩ := h
  have hnumbered := sent_ne_none hsent
  cases queued with
  | nil =>
    rw [hq, List.append_nil] at he
    exact absurd hn (hnumbered e he)
  | cons x rest =>
    refine ⟨sent ++ [{ x with sent := some q.nextSeq }], rest, ?_, fun y hy => hqueued y (List.mem_cons_of_mem _ hy), ?_⟩
    · simp only [hq, markSent_append q.nextSeq sent rest x hnumbered (hqueued x List.mem_cons_self), List.append_assoc,
        List.singleton_append]
    · intro k hk
      rw [List.length_append, List.length_singleton] at hk ⊢
      by_cases hlast : k < sent.length
      · rw [List.getElem_append_left hlast, hsent k hlast]
        have hone : BitVec.ofNat 16 (sent.length + 1 - k) = BitVec.ofNat 16 (sent.length - k) + 1 := by
          rw [Nat.sub_add_comm (Nat.le_of_lt hlast), BitVec.ofNat_add]
          rfl
        rw [hone]
        simp only [Option.some.injEq]
        bv_omega
      · have hk' : k = sent.length := by omega
        subst hk'
        simp

/-- R48, R49: the oldest Sent entry is the first of the queue, and leaves the others' numbers as they are. -/
theorem SentInOrder.retire {q : PostedQueue} {e : QueueEntry} (h : SentInOrder q)
    (he : q.entries.find? (fun x => x.sent.isSome) = some e) :
    SentInOrder { q with entries := q.entries.erase e } := by
  obtain ⟨sent, queued, hq, hqueued, hsent⟩ := h
  cases sent with
  | nil =>
    have hmem := List.mem_of_find?_eq_some he
    rw [hq, List.nil_append] at hmem
    have hsome := List.find?_some he
    rw [hqueued e hmem] at hsome
    cases hsome
  | cons x rest =>
    have hx : x = e := by
      have hfirst := sent_ne_none hsent x List.mem_cons_self
      have hpos := List.find?_cons_of_pos (p := fun x : QueueEntry => x.sent.isSome) (l := rest ++ queued)
        (Option.isSome_iff_ne_none.2 hfirst)
      rw [hq, List.cons_append, hpos] at he
      exact Option.some.inj he
    subst hx
    refine ⟨rest, queued, by simp [hq], hqueued, fun k hk => ?_⟩
    have hnext := hsent (k + 1) (Nat.succ_lt_succ hk)
    rw [List.getElem_cons_succ, List.length_cons, Nat.add_sub_add_right] at hnext
    exact hnext

/-! ## The queues of a state (R43, R51) -/

/-- R43, R51, of one port: its Sent entries are in order, and out of service its queue is empty. -/
def QueueInOrder (p : Port) (s : State) : Prop :=
  SentInOrder (peek s.pwqs p) ∧ (portInService p s = false → (peek s.pwqs p).entries = [])

theorem queuesInOrder_iff (s : State) : QueuesInOrder s ↔ ∀ p, QueueInOrder p s := Iff.rfl

/-- If the queues are in order in one state, they are in the other. -/
def KeepsQueues (s t : State) : Prop := QueuesInOrder s → QueuesInOrder t

/-- What the law is read from. -/
def queuePart (s : State) : Vector PostedQueue 4 × Vector PortRecord 4 := (s.pwqs, s.ports)

theorem portInService_congr {s t : State} (h : t.ports = s.ports) (p : Port) : portInService p t = portInService p s := by
  rw [portInService, portInService, h]

theorem portInService_putPort (p q : Port) (r : PortRecord) (s : State) :
    portInService q (putPort p r s) = if p = q then decide (r.state = .waiting ∨ r.state = .active) else portInService q s := by
  rw [Bool.eq_iff_iff, portInService_iff, putPort_ports, peek_poke]
  split
  · rw [decide_eq_true_iff]
  · rw [portInService_iff]

namespace KeepsQueues

theorem refl (s : State) : KeepsQueues s s := id

theorem trans {a b c : State} (h : KeepsQueues a b) (k : KeepsQueues b c) : KeepsQueues a c := k ∘ h

theorem of_same {s t : State} (h : queuePart t = queuePart s) : KeepsQueues s t := by
  obtain ⟨hpwqs, hports⟩ := Prod.mk.inj h
  intro hs p
  rw [hpwqs, portInService_congr hports]
  exact hs p

/-- An operation that keeps the queues in order, run on a state with the same queues and port records. -/
theorem from_same {s t u : State} (k : KeepsQueues t u) (h : queuePart t = queuePart s) : KeepsQueues s u :=
  (of_same h).trans k

/-- A queue whose entries change. -/
theorem setQueue {s : State} {p : Port} {q : PostedQueue}
    (h : QueueInOrder p s → SentInOrder q ∧ (portInService p s = false → q.entries = [])) :
    KeepsQueues s { s with pwqs := poke s.pwqs p q } := by
  intro hs p'
  rw [peek_poke]
  split
  · next hp => subst hp; exact h (hs p)
  · exact hs p'

/-- A port record that changes, and leaves the port in service or keeps its state. -/
theorem putPort {s : State} {p : Port} {r : PortRecord}
    (h : r.state = .waiting ∨ r.state = .active ∨ r.state = (peek s.ports p).state) : KeepsQueues s (putPort p r s) := by
  intro hs p'
  refine ⟨(hs p').1, fun hout => (hs p').2 ?_⟩
  rw [portInService_putPort] at hout
  split at hout
  · next hp =>
    subst hp
    have hstate := of_decide_eq_false hout
    obtain ⟨hwaiting, hactive⟩ := not_or.1 hstate
    rw [(h.resolve_left hwaiting).resolve_left hactive] at hstate
    rw [← Bool.not_eq_true, portInService_iff]
    exact hstate
  · exact hout

end KeepsQueues

/-! ## Frames -/

theorem LockFrame.queuePart {s t : State} (h : LockFrame s t) : queuePart t = queuePart s := by
  rw [Machine.queuePart, Machine.queuePart, h.pwqs, h.ports]

theorem TrackerFrame.queuePart {s t : State} (h : TrackerFrame s t) : queuePart t = queuePart s := h.toLock.queuePart

theorem FreeFrame.queuePart {s t : State} (h : FreeFrame s t) : queuePart t = queuePart s := h.toTracker.queuePart

theorem ServiceFrame.queuePart {s t : State} (h : ServiceFrame s t) : queuePart t = queuePart s := by
  rw [Machine.queuePart, Machine.queuePart, h.pwqs, h.ports]

theorem storeRecord_queuePart (x : RecordBody) (s : State) : queuePart (storeRecord x s) = queuePart s := by
  rw [queuePart, queuePart, storeRecord_pwqs, storeRecord_ports]

theorem raiseOnFirstRecord_queuePart (s t : State) : queuePart (raiseOnFirstRecord s t) = queuePart t :=
  (raiseOnFirstRecord_frame s t).queuePart

/-! ## The posted intake (R8, R29, R42) -/

/-- R8 row 4: a posted write that is to be queued leads to a port in service. -/
theorem decode_posted_work {a : Agent} {addr : Addr} {length : Nat} {s : State} {r : DecodeRecord}
    (h : decode .posted a addr length s = .work r) : portInService r.port s = true := by
  unfold decode at h
  split at h
  · cases h
  · dsimp only at h
    split at h
    · cases h
    · split at h
      · cases h
      · split at h
        · next hservice => cases h; exact hservice
        · cases h

theorem enqueuePosted_keepsQueues {r : DecodeRecord} {s : State} (e : PostedEntry) (h : portInService r.port s = true) :
    KeepsQueues s (enqueuePosted e r s) := by
  have hjoin := KeepsQueues.setQueue (s := s) (p := r.port)
    (q := { peek s.pwqs r.port with entries := (peek s.pwqs r.port).entries ++ [queueEntry e r] })
    fun hq => ⟨hq.1.join rfl, fun hout => absurd (h.symm.trans hout) nofun⟩
  exact hjoin.trans (.of_same rfl)

theorem takePosted_keepsQueues {d : Decoded} {s : State} (e : PostedEntry)
    (h : ∀ r, d = .work r → portInService r.port s = true) : KeepsQueues s (takePosted e d s) := by
  unfold takePosted
  split
  · split
    · exact .of_same (storeRecord_queuePart _ s)
    · exact .refl s
  · exact .of_same (storeRecord_queuePart _ s)
  · exact .refl s
  · exact .of_same (storeRecord_queuePart _ s)
  · exact enqueuePosted_keepsQueues e (h _ rfl)
  · exact .refl s
  · exact .refl s
  · exact .refl s

/-- R29: a relation that holds across the exit of one head holds across the exits of all that leave. An entry that is queued leads
to a port in service. -/
theorem exitPostedHeads_keeps {R : State → State → Prop} (refl : ∀ s, R s s) (trans : ∀ {a b c}, R a b → R b c → R a c)
    (leave : ∀ e d s, (∀ r, d = .work r → portInService r.port s = true) → ∀ rest,
      R s (appendEgress (.creditReturn .posted) (takePosted e d { s with postedIntake := rest })))
    (l : List PostedEntry) : ∀ s, R s (exitPostedHeads l s) := by
  induction l with
  | nil => exact refl
  | cons e rest ih =>
    intro s
    unfold exitPostedHeads
    dsimp only
    split
    · exact trans (leave e _ s (fun _ => decode_posted_work) rest) (ih _)
    · exact refl s

theorem lookUpHead_keepsQueues (s : State) : KeepsQueues s (lookUpHead s) := by
  refine exitPostedHeads_keeps KeepsQueues.refl KeepsQueues.trans (fun e d s hd rest => ?_) _ s
  have htake := takePosted_keepsQueues (s := { s with postedIntake := rest }) e hd
  exact (htake.from_same rfl).trans (.of_same rfl)

theorem testFences_keepsQueues (others : List SlotId) (s : State) : KeepsQueues s (testFences others s) :=
  .of_same (testFences_frame others s).queuePart

theorem exitHeadsAndTest_keepsQueues (s : State) : KeepsQueues s (exitHeadsAndTest s) := by
  unfold exitHeadsAndTest
  dsimp only
  split
  · exact lookUpHead_keepsQueues s
  · exact (lookUpHead_keepsQueues s).trans (testFences_keepsQueues [] _)

theorem retire_keepsQueues {p : Port} {e : QueueEntry} {s : State} (h : oldestSent p s = some e) :
    KeepsQueues s (retire p e s) := by
  have herase := KeepsQueues.setQueue (s := s) (p := p)
    (q := { peek s.pwqs p with entries := (peek s.pwqs p).entries.erase e })
    fun hq => ⟨hq.1.retire h, fun hout => by
      rw [oldestSent, hq.2 hout] at h
      cases h⟩
  unfold retire
  exact herase.trans ((KeepsQueues.of_same (countDown_frame e.generation _).queuePart).trans
    ((lookUpHead_keepsQueues _).trans (testFences_keepsQueues [] _)))

/-! ## The port exit (R51, R138) -/

theorem discardQueue_pwqs (p : Port) (c : DiscardCause) (s : State) :
    (discardQueue p c s).pwqs = poke s.pwqs p { peek s.pwqs p with entries := [] } := by
  have h := FreeFrame.fold (fun (s : State) (e : QueueEntry) => countDown e.generation s)
    (fun s e => countDown_frame e.generation s) (peek s.pwqs p).entries
    { s with pwqs := poke s.pwqs p { peek s.pwqs p with entries := [] } }
  unfold discardQueue
  dsimp only
  split
  · exact h.pwqs
  · rw [storeRecord_pwqs]
    exact h.pwqs

/-- R51: a discard leaves the port's queue empty, and the others as they are. -/
theorem discardQueue_queuesInOrder {p : Port} (c : DiscardCause) {s : State} (h : ∀ q, q ≠ p → QueueInOrder q s) :
    QueuesInOrder (discardQueue p c s) := by
  intro q
  rw [discardQueue_pwqs, portInService_congr (discardQueue_frame p c s).ports, peek_poke]
  split
  · exact ⟨sentInOrder_empty rfl, fun _ => rfl⟩
  · next hq => exact h q (Ne.symm hq)

theorem breakLock_queuePart (p : Port) (c : BreakCause) (s : State) : queuePart (breakLock p c s) = queuePart s := by
  unfold breakLock
  split
  · rfl
  · rw [storeRecord_queuePart]
    rfl
  · rw [storeRecord_queuePart]
    rfl

theorem breakAtExit_queuePart (p : Port) (c : BreakCause) (s : State) : queuePart (breakAtExit p c s) = queuePart s := by
  unfold breakAtExit
  split
  · exact (TrackerFrame.fold _ (fun s i => meetFenceAtExit_frame i s) _ _).queuePart.trans (breakLock_queuePart p c s)
  · rfl

/-- R138: the steps of an exit after the discard. -/
theorem portExit_keepsDiscarded (p : Port) (c : ExitCauses) (s : State) :
    KeepsQueues (discardQueue p c.discard s) (portExit p c s) := by
  unfold portExit
  refine KeepsQueues.trans ?_ (testFences_keepsQueues _ _)
  refine KeepsQueues.trans ?_ (lookUpHead_keepsQueues _)
  refine KeepsQueues.trans ?_ (.of_same (answerSlotsAtExit_frame p _).queuePart)
  refine KeepsQueues.trans ?_ (.of_same (breakAtExit_queuePart p c.lock _))
  exact .of_same rfl

/-- R138: whatever the queue of the port held, an exit leaves all queues in order if the others were. -/
theorem portExit_queuesInOrder {p : Port} (c : ExitCauses) {s : State} (h : ∀ q, q ≠ p → QueueInOrder q s) :
    QueuesInOrder (portExit p c s) :=
  portExit_keepsDiscarded p c s (discardQueue_queuesInOrder c.discard h)

/-- A port leaves service, and its exit discards its queue. -/
theorem portExit_keepsQueues {p : Port} (c : ExitCauses) {s t : State} (hpwqs : t.pwqs = s.pwqs)
    (hports : ∀ q, q ≠ p → peek t.ports q = peek s.ports q) : KeepsQueues s (portExit p c t) := by
  refine fun hs => portExit_queuesInOrder c fun q hq => ?_
  rw [QueueInOrder, hpwqs, portInService, hports q hq]
  exact hs q

theorem failPort_keepsQueues (p : Port) (c : FaultCause) (x : Option SlotId) (s : State) :
    KeepsQueues s (failPort p c x s) := by
  rw [failPort_eq]
  refine portExit_keepsQueues _ (by rw [storeRecord_pwqs]; rfl) fun q hq => ?_
  rw [storeRecord_ports, putPort_ports, peek_poke_ne _ _ (Ne.symm hq)]

end Sys2Proof.Machine
end

section
/-! PROOFS. R43 and R51, kept by every command. Most commands touch neither a queue nor a port record; the others are the posted
intake's exits, the posted lane's sends, the receipts, and what moves a port. -/

namespace Sys2Proof.Machine

/-! ## Arrivals -/

theorem takeFreeAddress_queuePart (words : List Word) (s : State) : queuePart (takeFreeAddress words s) = queuePart s := by
  unfold takeFreeAddress
  split <;> rfl

theorem spendCredit_queuePart (c : CreditClass) (s : State) : queuePart (spendCredit c s) = queuePart s := by
  cases c <;> rfl

theorem joinPosted_keepsQueues (a : Agent) (addr : Addr) (length : Nat) (data : List Byte) (s : State) :
    KeepsQueues s (joinPosted a addr length data s) := by
  unfold joinPosted
  dsimp only
  split
  · exact (exitHeadsAndTest_keepsQueues _).from_same rfl
  · exact .of_same rfl

theorem arrivePosted_keepsQueues (agent : BitVec 4) (length : Nat) (words : List Word) (data : List Byte) (s : State) :
    KeepsQueues s (arrivePosted agent length words data s) := by
  unfold arrivePosted
  dsimp only
  split
  · exact .of_same (storeRecord_queuePart _ s)
  · split
    · exact .of_same (storeRecord_queuePart _ s)
    · split
      · exact .of_same (storeRecord_queuePart _ s)
      · exact joinPosted_keepsQueues _ _ _ _ s

theorem admitNonPosted_queuePart (a : Agent) (t : Tag) (kind : UpKind) (body : NonPostedBody) (s : State) :
    queuePart (admitNonPosted a t kind body s) = queuePart s := by
  unfold admitNonPosted
  split
  · exact storeRecord_queuePart _ s
  · split
    · exact storeRecord_queuePart _ s
    · rfl

theorem accessArrives_queuePart (k : SlotKind) (agent : BitVec 4) (tag : BitVec 6) (length : BitVec 9) (words : List Word)
    (data : List Byte) (s : State) : queuePart (accessArrives k agent tag length words data s) = queuePart s := by
  rw [accessArrives, takeFreeAddress_queuePart, ← spendCredit_queuePart .nonPosted s]
  unfold arriveAccess
  dsimp only
  split
  · split
    · exact storeRecord_queuePart _ _
    · exact admitNonPosted_queuePart _ _ _ _ _
  · exact storeRecord_queuePart _ _

theorem arriveRelease_queuePart (agent : BitVec 4) (tag : BitVec 6) (words : List Word) (data : List Byte) (s : State) :
    queuePart (arriveRelease agent tag words data s) = queuePart s := by
  unfold arriveRelease
  split
  · split
    · exact admitNonPosted_queuePart _ _ _ _ s
    · exact storeRecord_queuePart _ s
  · exact storeRecord_queuePart _ s

theorem takeManagementHead_queuePart (s : State) : queuePart (takeManagementHead s) = queuePart s := by
  unfold takeManagementHead
  split <;> rfl

theorem admitManagement_queuePart (e : ManagementEntry) (s : State) : queuePart (admitManagement e s) = queuePart s := by
  unfold admitManagement
  split
  · exact storeRecord_queuePart _ s
  · split
    · exact storeRecord_queuePart _ s
    · unfold joinManagement
      dsimp only
      split
      · exact (takeManagementHead_queuePart _).trans rfl
      · rfl

theorem arriveManagement_queuePart (agent : BitVec 4) (tag : BitVec 6) (operation : BitVec 4) (index : BitVec 7)
    (words : List Word) (data : List Byte) (s : State) :
    queuePart (arriveManagement agent tag operation index words data s) = queuePart s := by
  unfold arriveManagement
  split
  · split
    · exact storeRecord_queuePart _ s
    · split
      · exact storeRecord_queuePart _ s
      · exact admitManagement_queuePart _ s
  · exact storeRecord_queuePart _ s

theorem takeServiceDone_queuePart (a : Agent) (v : VectorId) (s : State) :
    queuePart (takeServiceDone a v s) = queuePart s := by
  unfold takeServiceDone
  split
  · exact storeRecord_queuePart _ s
  · exact storeRecord_queuePart _ s
  · split
    · exact (endService_frame v a s).queuePart
    · exact storeRecord_queuePart _ s

theorem arriveServiceDone_queuePart (agent : BitVec 4) (vector : BitVec 7) (words : List Word) (data : List Byte)
    (s : State) : queuePart (arriveServiceDone agent vector words data s) = queuePart s := by
  unfold arriveServiceDone
  split
  · split
    · exact takeServiceDone_queuePart _ _ s
    · exact storeRecord_queuePart _ s
  · exact storeRecord_queuePart _ s

/-! ## The exit of the non-posted intake -/

theorem takeAccess_queuePart (e : NonPostedEntry) (k : SlotKind) (a : Addr) (n : Nat) (data : List Byte) (d : Decoded)
    (s : State) : queuePart (takeAccess e k a n data d s) = queuePart s := by
  have hanswer : ∀ st data t, queuePart (answerNow e st data t) = queuePart t :=
    fun st data t => (answerNow_frame e st data t).queuePart
  unfold takeAccess
  split
  · rw [hanswer]
    split
    · exact storeRecord_queuePart _ s
    · rfl
  · rw [hanswer, storeRecord_queuePart]
  · exact hanswer _ _ s
  · exact hanswer _ _ s
  · rw [hanswer, storeRecord_queuePart]
  · exact hanswer _ _ s
  · rw [hanswer, (touchBuffer_frame _ s).queuePart]
  · exact (allocate_frame e k data _ s).queuePart

theorem takeRelease_queuePart (e : NonPostedEntry) (s : State) : queuePart (takeRelease e s) = queuePart s := by
  unfold takeRelease
  split
  · rw [(openLock_frame _ _).queuePart, (answerNow_frame e _ _ s).queuePart]
  · split
    · rfl
    · rw [(answerNow_frame e _ _ _).queuePart, storeRecord_queuePart]

theorem exitNonPosted_queuePart (e : NonPostedEntry) (s : State) : queuePart (exitNonPosted e s) = queuePart s := by
  unfold exitNonPosted
  dsimp only
  split
  · exact (takeRelease_queuePart e _).trans rfl
  · exact (takeAccess_queuePart e _ _ _ _ _ _).trans rfl

/-! ## Messages from a target -/

theorem ifActive_keepsQueues {act : State → State} {s : State} (p : Port) (h : KeepsQueues s (act s)) :
    KeepsQueues s (ifActive p act s) := by
  unfold ifActive
  split
  · exact h
  · exact .refl s

/-- R128: a port that becomes Active stays in service. -/
theorem takeReady_keepsQueues (p : Port) (posted nonPosted : Nat) (s : State) :
    KeepsQueues s (takeReady p posted nonPosted s) := by
  unfold takeReady
  dsimp only
  split
  · split
    · exact .putPort (.inr (.inl rfl))
    · exact failPort_keepsQueues p _ _ s
  · exact failPort_keepsQueues p _ _ s
  · exact .refl s
  · exact .refl s

theorem takeCredit_keepsQueues (p : Port) (lane : Lane) (count : Nat) (s : State) :
    KeepsQueues s (takeCredit p lane count s) := by
  unfold takeCredit
  dsimp only
  split
  · split
    · exact failPort_keepsQueues p _ _ s
    · exact .putPort (.inr (.inr rfl))
  · split
    · exact failPort_keepsQueues p _ _ s
    · exact .putPort (.inr (.inr rfl))

theorem takeReceipt_keepsQueues (p : Port) (seq : WriteSeq) (s : State) : KeepsQueues s (takeReceipt p seq s) := by
  unfold takeReceipt
  split
  · next e he =>
    split
    · exact retire_keepsQueues he
    · exact failPort_keepsQueues p _ _ s
  · exact failPort_keepsQueues p _ _ s

theorem takeInterrupt_queuePart (p : Port) (vector : BitVec 7) (s : State) :
    queuePart (takeInterrupt p vector s) = queuePart s := by
  unfold takeInterrupt
  split
  · split
    · exact storeRecord_queuePart _ s
    · exact (raiseVector_frame _ s).queuePart
  · exact storeRecord_queuePart _ s

theorem takeReadPiece_keepsQueues (p : Port) (i : SlotId) (u : SlotUse) (offset count : Nat) (data : List Byte)
    (s : State) : KeepsQueues s (takeReadPiece p i u offset count data s) := by
  unfold takeReadPiece
  split
  · exact failPort_keepsQueues p _ _ s
  · dsimp only
    split
    · exact .of_same ((completeRead_frame i _ _ _).queuePart.trans rfl)
    · exact .of_same rfl

theorem takeWritePiece_keepsQueues (p : Port) (i : SlotId) (u : SlotUse) (count : Nat) (data : List Byte) (s : State) :
    KeepsQueues s (takeWritePiece p i u count data s) := by
  unfold takeWritePiece
  split
  · exact .of_same ((lockActs_frame i _ _ _).queuePart.trans (answerSlot_frame i _ _ s).queuePart)
  · exact failPort_keepsQueues p _ _ s

theorem takeMatchingPiece_keepsQueues (p : Port) (i : SlotId) (u : SlotUse) (status : PieceStatus) (offset count : Nat)
    (data : List Byte) (s : State) : KeepsQueues s (takeMatchingPiece p i u status offset count data s) := by
  unfold takeMatchingPiece
  split
  · exact .of_same ((storeRecord_queuePart _ _).trans (freeSlot_frame i s).queuePart)
  · cases status with
    | fault => exact .of_same ((lockActs_frame i _ _ _).queuePart.trans (failSlot_frame i _ s).queuePart)
    | good =>
      dsimp only
      split
      · exact takeReadPiece_keepsQueues p i u _ _ _ s
      · exact takeReadPiece_keepsQueues p i u _ _ _ s
      · exact takeWritePiece_keepsQueues p i u _ _ s
      · exact takeWritePiece_keepsQueues p i u _ _ s

theorem takePiece_keepsQueues (p : Port) (tag : BitVec 8) (status : PieceStatus) (offset count : Nat) (data : List Byte)
    (s : State) : KeepsQueues s (takePiece p tag status offset count data s) := by
  unfold takePiece
  split
  · exact failPort_keepsQueues p _ _ s
  · split
    · exact .of_same (storeRecord_queuePart _ s)
    · split
      · exact takeMatchingPiece_keepsQueues p _ _ _ _ _ _ s
      · exact .refl s

/-! ## Sends -/

/-- R45: the posted lane sends the oldest Queued entry of a port in service. -/
theorem sendPosted_keepsQueues {p : Port} {e : QueueEntry} {s : State} (h : oldestQueued p s = some e) :
    KeepsQueues s (sendPosted p e s) := by
  have hmem := List.mem_of_find?_eq_some h
  have hnone : e.sent = none := Option.isNone_iff_eq_none.1 (List.find?_some (p := fun e : QueueEntry => e.sent.isNone) h)
  have hqueue := KeepsQueues.setQueue (s := s) (p := p)
    (q := { entries := markSent (peek s.pwqs p).nextSeq (peek s.pwqs p).entries, nextSeq := (peek s.pwqs p).nextSeq + 1 })
    fun hq => ⟨hq.1.send hmem hnone, fun hout => by
      rw [hq.2 hout] at hmem
      exact absurd hmem List.not_mem_nil⟩
  refine hqueue.trans (KeepsQueues.trans (KeepsQueues.putPort (p := p) (r := { peek s.ports p with
    postedCredit := (peek s.ports p).postedCredit - 1, lastWinner := .posted }) (.inr (.inr rfl))) (.of_same rfl))

theorem sendNonPosted_keepsQueues (p : Port) (i : SlotId) (u : SlotUse) (s : State) :
    KeepsQueues s (sendNonPosted p i u s) :=
  (KeepsQueues.putPort (p := p) (r := { peek s.ports p with
    nonPostedCredit := (peek s.ports p).nonPostedCredit - 1, lastWinner := .nonPosted }) (.inr (.inr rfl))).trans
    (.of_same rfl)

/-! ## Timers -/

theorem expireSlot_queuePart (i : SlotId) (u : SlotUse) (s : State) : queuePart (expireSlot i u s) = queuePart s := by
  unfold expireSlot
  dsimp only
  rw [(lockActs_frame i _ _ _).queuePart, ← storeRecord_queuePart (.completionExpired u.agent u.tag u.port i u.state) s]
  split
  · exact (orphanSlot_frame i u _).queuePart
  · exact (failSlot_frame i _ _).queuePart.trans (leaveLists_frame i u _).queuePart

/-! ## Management -/

theorem endRequest_keepsQueues {r : ManagementEntry} {rule : ManagementEntry → State → Answer}
    (h : ∀ s, KeepsQueues s (rule r s).after) (s : State) : KeepsQueues s (endRequest r rule s) := by
  have hanswer : KeepsQueues s (answerRequest r rule { s with current := none }).after := by
    unfold answerRequest
    split
    · exact .of_same rfl
    · split
      · exact .of_same (storeRecord_queuePart _ _)
      · split
        · exact .of_same rfl
        · exact (h _).from_same rfl
  exact hanswer.trans (.of_same ((appendCompletion_frame _ _).queuePart.trans (raiseOnFirstRecord_queuePart s _)))

theorem readRegisterRule_queuePart (r : ManagementEntry) (s : State) : queuePart (readRegisterRule r s).after = queuePart s := by
  unfold readRegisterRule
  split <;> rfl

theorem readErrorStatusRule_queuePart (r : ManagementEntry) (s : State) :
    queuePart (readErrorStatusRule r s).after = queuePart s := by
  unfold readErrorStatusRule
  split <;> rfl

theorem writeMaskRule_queuePart (r : ManagementEntry) (s : State) : queuePart (writeMaskRule r s).after = queuePart s := by
  unfold writeMaskRule
  dsimp only
  split <;> rfl

theorem writeTimeoutRule_queuePart (r : ManagementEntry) (s : State) :
    queuePart (writeTimeoutRule r s).after = queuePart s := by
  unfold writeTimeoutRule
  dsimp only
  split <;> rfl

theorem writeHoldRule_queuePart (r : ManagementEntry) (s : State) : queuePart (writeHoldRule r s).after = queuePart s := by
  unfold writeHoldRule
  dsimp only
  split <;> rfl

theorem writeMasksRule_queuePart (r : ManagementEntry) (s : State) : queuePart (writeMasksRule r s).after = queuePart s := by
  rw [writeMasksRule, answerDone_after, (resteer_frame _).queuePart]
  rfl

theorem stageWindowRule_queuePart (r : ManagementEntry) (s : State) : queuePart (stageWindowRule r s).after = queuePart s := by
  unfold stageWindowRule
  split
  · rfl
  · split
    · split
      · rfl
      · unfold stageEntry
        cases s.activeBank <;> rfl
    · rfl

theorem readWindowRule_queuePart (r : ManagementEntry) (s : State) : queuePart (readWindowRule r s).after = queuePart s := by
  unfold readWindowRule
  split <;> rfl

theorem writeVectorRule_queuePart (r : ManagementEntry) (s : State) : queuePart (writeVectorRule r s).after = queuePart s := by
  unfold writeVectorRule
  dsimp only
  split
  · rfl
  · rw [answerDone_after, (resteer_frame _).queuePart]
    rfl

theorem takeRecordRule_queuePart (r : ManagementEntry) (s : State) : queuePart (takeRecordRule r s).after = queuePart s := by
  unfold takeRecordRule
  split <;> rfl

/-- R51, R127: a port enters Waiting with the empty queue of a port out of service, whose numbers start again at 0. -/
theorem enterWaiting_keepsQueues {p : Port} {s : State} (h : portInService p s = false) :
    KeepsQueues s (enterWaiting p s) := by
  have hqueue := KeepsQueues.setQueue (s := s) (p := p) (q := { peek s.pwqs p with nextSeq := 0 })
    fun hq => ⟨sentInOrder_empty (hq.2 h), fun _ => hq.2 h⟩
  exact hqueue.trans (KeepsQueues.trans (KeepsQueues.putPort (p := p) (r := { peek s.ports p with
    state := .waiting, postedCredit := 0, nonPostedCredit := 0, postedGrant := 0, nonPostedGrant := 0,
    lastWinner := .nonPosted }) (.inl rfl)) (.of_same rfl))

theorem portInService_eq_false {p : Port} {s : State}
    (h : (peek s.ports p).state = .disabled ∨ (peek s.ports p).state = .failed) : portInService p s = false := by
  obtain h | h := h <;> rw [portInService, h]

/-- R137: the port that a disable takes out of service loses its queue. -/
theorem disableRule_keepsQueues (p : Port) (s : State) : KeepsQueues s (disableRule p s).after := by
  unfold disableRule
  split
  · exact .refl s
  · exact portExit_keepsQueues _ rfl fun q hq => peek_poke_ne _ _ (Ne.symm hq)

theorem portControlRule_keepsQueues (r : ManagementEntry) (s : State) : KeepsQueues s (portControlRule r s).after := by
  unfold portControlRule
  split
  · exact .refl s
  · split
    · unfold enableRule
      split
      · next hstate => exact enterWaiting_keepsQueues (portInService_eq_false (.inl hstate))
      · exact .refl s
    · split
      · exact disableRule_keepsQueues _ s
      · split
        · unfold restartRule
          split
          · next hstate => exact enterWaiting_keepsQueues (portInService_eq_false (.inr hstate))
          · exact .refl s
        · exact .refl s

theorem commitAccepted_keepsQueues (r : ManagementEntry) (s : State) : KeepsQueues s (commitAccepted r s) := by
  refine KeepsQueues.trans ?_ (.of_same (endDrainIfDone_frame _).queuePart)
  refine KeepsQueues.trans ?_ (.of_same (raiseOnFirstRecord_queuePart s _))
  unfold acceptCommit swapBanks
  refine KeepsQueues.trans ((exitHeadsAndTest_keepsQueues _).from_same ?_) (.of_same rfl)
  rfl

theorem upstreamReset_queuePart (s : State) : queuePart (upstreamReset s) = queuePart s := by
  obtain ⟨u, -, hreset⟩ := upstreamReset_eq s
  rw [hreset, (resteer_frame _).queuePart]
  rfl

/-! ## Every command -/

/-- A command's outcome keeps the queues of the state it ran on in order. -/
def OutcomeKeepsQueues (s : State) (o : Host.Outcome State Fault Refusal) : Prop := ∀ t, o = .next t → KeepsQueues s t

namespace OutcomeKeepsQueues

theorem next {s t : State} (h : KeepsQueues s t) : OutcomeKeepsQueues s (.next t) := by
  intro t' e
  cases e
  exact h

theorem event {act : State → State} {s : State} (h : KeepsQueues s (act s)) : OutcomeKeepsQueues s (event act s) :=
  next (h.trans (.of_same (raiseOnFirstRecord_queuePart s _)))

/-- A command that touches no queue and no port record. -/
theorem quiet {act : State → State} {s : State} (h : queuePart (act s) = queuePart s) :
    OutcomeKeepsQueues s (Machine.event act s) := event (.of_same h)

/-- The execution end of a request. -/
theorem executionEnd {named : ManagementEntry → Bool} {rule : ManagementEntry → State → Answer}
    (h : ∀ r s, KeepsQueues s (rule r s).after) (s : State) : OutcomeKeepsQueues s (executionEnd named rule s) := by
  unfold Machine.executionEnd
  split
  · split
    · exact next (endRequest_keepsQueues (h _) s)
    · exact next (.refl s)
  · exact next (.refl s)

/-- The execution end of a request whose operation touches no queue and no port record. -/
theorem quietEnd {named : ManagementEntry → Bool} {rule : ManagementEntry → State → Answer}
    (h : ∀ r s, queuePart (rule r s).after = queuePart s) (s : State) :
    OutcomeKeepsQueues s (Machine.executionEnd named rule s) := executionEnd (fun r s => .of_same (h r s)) s

end OutcomeKeepsQueues

theorem execPostedWrite_keepsQueues (agent : BitVec 4) (length : BitVec 9) (words : List Word) (data : List Byte)
    (s : State) : OutcomeKeepsQueues s (execPostedWrite agent length words data s) := by
  refine .event (KeepsQueues.trans ?_ (.of_same (takeFreeAddress_queuePart words _)))
  exact (arrivePosted_keepsQueues agent _ words data _).from_same (spendCredit_queuePart .posted s)

theorem execNonPostedIntakeExit_keepsQueues (s : State) : OutcomeKeepsQueues s (execNonPostedIntakeExit s) := by
  unfold execNonPostedIntakeExit
  split
  · exact .quiet (exitNonPosted_queuePart _ s)
  · exact .next (.refl s)

theorem execPostedWriteSend_keepsQueues (p : Port) (s : State) : OutcomeKeepsQueues s (execPostedWriteSend p s) := by
  unfold execPostedWriteSend
  split
  · next he => exact .next (sendPosted_keepsQueues he)
  · exact .next (.refl s)

theorem execNonPostedSend_keepsQueues (p : Port) (s : State) : OutcomeKeepsQueues s (execNonPostedSend p s) := by
  unfold execNonPostedSend
  split
  · split
    · exact .next (sendNonPosted_keepsQueues p _ _ s)
    · exact .next (.refl s)
  · exact .next (.refl s)

theorem execPortLinkFault_keepsQueues (p : Port) (s : State) : OutcomeKeepsQueues s (execPortLinkFault p s) := by
  refine .event ?_
  split
  · exact failPort_keepsQueues p _ none s
  · exact .refl s

theorem execCompletionTimerExpiry_keepsQueues (i : SlotId) (s : State) :
    OutcomeKeepsQueues s (execCompletionTimerExpiry i s) := by
  unfold execCompletionTimerExpiry
  split
  · split
    · exact .quiet (expireSlot_queuePart i _ s)
    · exact .next (.refl s)
  · exact .next (.refl s)

theorem execOrphanTimerExpiry_keepsQueues (i : SlotId) (s : State) : OutcomeKeepsQueues s (execOrphanTimerExpiry i s) := by
  unfold execOrphanTimerExpiry
  split
  · split
    · exact .quiet ((storeRecord_queuePart _ _).trans (freeSlot_frame i s).queuePart)
    · exact .next (.refl s)
  · exact .next (.refl s)

theorem execHoldTimerExpiry_keepsQueues (p : Port) (s : State) : OutcomeKeepsQueues s (execHoldTimerExpiry p s) := by
  unfold execHoldTimerExpiry
  split
  · split
    · exact .quiet ((openLock_frame p _).queuePart.trans (breakLock_queuePart p _ s))
    · exact .next (.refl s)
  · exact .next (.refl s)
  · exact .next (.refl s)

theorem execCommitWindows_keepsQueues (s : State) : OutcomeKeepsQueues s (execCommitWindows s) := by
  unfold execCommitWindows
  split
  · split
    · exact .next (commitAccepted_keepsQueues _ s)
    · exact .quietEnd (fun _ _ => rfl) s
  · exact .next (.refl s)

theorem execEgressTransmission_keepsQueues (s : State) : OutcomeKeepsQueues s (execEgressTransmission s) := by
  unfold execEgressTransmission
  split
  · exact .next (.refl s)
  · exact .next (.of_same rfl)

theorem exec_keepsQueues (c : Instr) (s : State) : OutcomeKeepsQueues s (exec c s) := by
  cases c with
  | coldReset => exact .next (fun _ => reset_queuesInOrder)
  | upstreamLinkReset => exact .next (.of_same (upstreamReset_queuePart s))
  | postedWrite agent length words data => exact execPostedWrite_keepsQueues agent length words data s
  | read agent tag length words data => exact .quiet (accessArrives_queuePart .read agent tag length words data s)
  | nonPostedWrite agent tag length words data =>
    exact .quiet (accessArrives_queuePart .nonPostedWrite agent tag length words data s)
  | exclusiveRead agent tag length words data =>
    exact .quiet (accessArrives_queuePart .exclusiveRead agent tag length words data s)
  | exclusiveWrite agent tag length words data =>
    exact .quiet (accessArrives_queuePart .exclusiveWrite agent tag length words data s)
  | exclusiveRelease agent tag words data =>
    exact .quiet ((arriveRelease_queuePart agent tag words data _).trans (spendCredit_queuePart .nonPosted s))
  | managementRequest agent tag operation index words data =>
    exact .quiet ((arriveManagement_queuePart agent tag operation index words data _).trans
      (spendCredit_queuePart .management s))
  | serviceDone agent vector words data => exact .quiet (arriveServiceDone_queuePart agent vector words data s)
  | unknownKindPacket kind agent => exact .quiet (storeRecord_queuePart _ s)
  | postedIntakeExit => exact .event (exitHeadsAndTest_keepsQueues s)
  | nonPostedIntakeExit => exact execNonPostedIntakeExit_keepsQueues s
  | postedWriteSend port => exact execPostedWriteSend_keepsQueues port s
  | nonPostedSend port => exact execNonPostedSend_keepsQueues port s
  | readyMessage port postedGrant nonPostedGrant => exact .event (takeReady_keepsQueues port _ _ s)
  | creditReturn port lane count => exact .event (ifActive_keepsQueues port (takeCredit_keepsQueues port lane _ s))
  | receipt port seq => exact .event (ifActive_keepsQueues port (takeReceipt_keepsQueues port seq s))
  | completionPiece port tag status offset count data =>
    exact .event (ifActive_keepsQueues port (takePiece_keepsQueues port tag status _ _ data s))
  | interruptMessage port vector =>
    exact .event (ifActive_keepsQueues port (.of_same (takeInterrupt_queuePart port vector s)))
  | malformedMessage port => exact .event (ifActive_keepsQueues port (failPort_keepsQueues port _ none s))
  | portLinkFault port => exact execPortLinkFault_keepsQueues port s
  | completionTimerExpiry slot => exact execCompletionTimerExpiry_keepsQueues slot s
  | orphanTimerExpiry slot => exact execOrphanTimerExpiry_keepsQueues slot s
  | holdTimerExpiry port => exact execHoldTimerExpiry_keepsQueues port s
  | commitDrainEnd => exact .next (.of_same (endDrainIfDone_frame s).queuePart)
  | managementTake => exact .next (.of_same (takeManagementHead_queuePart s))
  | undefinedOperation => exact .quietEnd (fun _ _ => rfl) s
  | readRegister => exact .quietEnd readRegisterRule_queuePart s
  | readErrorQueueStatus => exact .quietEnd readErrorStatusRule_queuePart s
  | writeRegister => exact .quietEnd (fun _ _ => rfl) s
  | writeManagementAgentMask => exact .quietEnd writeMaskRule_queuePart s
  | writeMissPolicy => exact .quietEnd (fun _ _ => rfl) s
  | writeCompletionTimeout => exact .quietEnd writeTimeoutRule_queuePart s
  | writeExclusiveHoldLimit => exact .quietEnd writeHoldRule_queuePart s
  | writeAgentInterruptMasks => exact .quietEnd writeMasksRule_queuePart s
  | stageWindow => exact .quietEnd stageWindowRule_queuePart s
  | readWindow => exact .quietEnd readWindowRule_queuePart s
  | commitWindows => exact execCommitWindows_keepsQueues s
  | portControlEnable => exact .executionEnd portControlRule_keepsQueues s
  | portControlDisable => exact .executionEnd portControlRule_keepsQueues s
  | portControlRestart => exact .executionEnd portControlRule_keepsQueues s
  | writeVector => exact .quietEnd writeVectorRule_queuePart s
  | readVector => exact .quietEnd (fun _ _ => rfl) s
  | takeErrorRecord => exact .quietEnd takeRecordRule_queuePart s
  | bridgeTimeAdvance => exact .next (.of_same rfl)
  | egressTransmission => exact execEgressTransmission_keepsQueues s

/-- Settles O55: the command a step takes runs on a state that differs from the one before in the queue of commands alone. -/
theorem queuesInOrderKept : Obligations.QueuesInOrderKept := by
  unfold Obligations.QueuesInOrderKept
  intro s t h hstep
  unfold step at hstep
  split at hstep
  · cases hstep
    exact h
  · next c rest _ =>
    exact exec_keepsQueues c _ t hstep (KeepsQueues.of_same (t := { s with pending := rest }) rfl h)

end Sys2Proof.Machine
end

section
/-! PROOFS. The two lanes of a port and the arbiter's grant (R44, R46, R63, R132), and what each lane sends (R45, R61, R64). -/

namespace Sys2Proof.Machine

/-! ## Offers (R44, R46, R63) -/

theorem isActive_iff (p : Port) (s : State) : isActive p s = true ↔ (peek s.ports p).state = .active := by
  simp [isActive]

/-- The oldest Queued entry has only Sent entries ahead of it. -/
theorem oldestQueued_eq_some_iff {p : Port} {s : State} {e : QueueEntry} :
    oldestQueued p s = some e ↔
      ∃ older younger, (peek s.pwqs p).entries = older ++ e :: younger ∧ (∀ x ∈ older, x.sent ≠ none) ∧ e.sent = none := by
  constructor
  · intro h
    obtain ⟨hnone, older, younger, hq, hsent⟩ := List.find?_eq_some_iff_append.1 h
    refine ⟨older, younger, hq, fun x hx => ?_, Option.isNone_iff_eq_none.1 hnone⟩
    simpa [Option.isSome_iff_ne_none] using hsent x hx
  · rintro ⟨older, younger, hq, hsent, hnone⟩
    exact oldestQueued_append hq hsent hnone

theorem oldestQueued_eq_none {p : Port} {s : State} (h : ∀ x ∈ (peek s.pwqs p).entries, x.sent ≠ none) :
    oldestQueued p s = none := by
  refine List.find?_eq_none.2 fun x hx => ?_
  rw [Option.isNone_iff_eq_none]
  exact h x hx

/-- R44, R46: when the posted lane offers its oldest Queued entry. -/
theorem postedOffers_iff {p : Port} {s : State} {e : QueueEntry} (h : oldestQueued p s = some e) :
    postedOffers p s = true ↔
      (peek s.ports p).state = .active ∧ 0 < (peek s.ports p).postedCredit ∧ ¬ heldByLock p e.arrival s = true := by
  simp [postedOffers, h, isActive_iff, and_assoc]

/-- R63: when the non-posted lane offers the oldest slot of its dispatch list. -/
theorem nonPostedOffers_iff (p : Port) (s : State) :
    nonPostedOffers p s = true ↔
      (peek s.ports p).state = .active ∧ 0 < (peek s.ports p).nonPostedCredit ∧ peek s.dispatch p ≠ [] := by
  simp [nonPostedOffers, isActive_iff, and_assoc]

/-! ## Grants (R132) -/

theorem grantedLane_posted_iff (p : Port) (s : State) :
    grantedLane p s = some .posted ↔
      postedOffers p s = true ∧ ¬ (nonPostedOffers p s = true ∧ (peek s.ports p).lastWinner = .posted) := by
  unfold grantedLane
  cases postedOffers p s <;> cases nonPostedOffers p s <;> simp

theorem grantedLane_nonPosted_iff (p : Port) (s : State) :
    grantedLane p s = some .nonPosted ↔
      nonPostedOffers p s = true ∧ (postedOffers p s = true → (peek s.ports p).lastWinner = .posted) := by
  unfold grantedLane
  cases postedOffers p s <;> cases nonPostedOffers p s <;> simp

theorem lane_ne_posted_iff (l : Lane) : l ≠ .posted ↔ l = .nonPosted := by cases l <;> decide

/-! ## The posted lane -/

theorem exec_postedWriteSend_granted {p : Port} {s : State} {e : QueueEntry} (hgrant : grantedLane p s = some .posted)
    (he : oldestQueued p s = some e) : exec (.postedWriteSend p) s = .next (sendPosted p e s) := by
  have hexec : exec (.postedWriteSend p) s = execPostedWriteSend p s := rfl
  rw [hexec, execPostedWriteSend, hgrant, he]

theorem exec_postedWriteSend_notGranted {p : Port} {s : State}
    (h : grantedLane p s ≠ some .posted ∨ oldestQueued p s = none) : exec (.postedWriteSend p) s = .next s := by
  have hexec : exec (.postedWriteSend p) s = execPostedWriteSend p s := rfl
  rw [hexec, execPostedWriteSend]
  split
  · next hgrant he =>
    obtain h | h := h
    · exact absurd hgrant h
    · rw [he] at h
      cases h
  · rfl

/-- R45: the whole effect of a send on the posted lane. -/
theorem sendPosted_eq {p : Port} {s : State} {older younger : List QueueEntry} {e : QueueEntry}
    (hq : (peek s.pwqs p).entries = older ++ e :: younger) (hsent : ∀ x ∈ older, x.sent ≠ none) (hnone : e.sent = none) :
    sendPosted p e s =
      { s with
        pwqs := poke s.pwqs p
          { entries := older ++ { e with sent := some (peek s.pwqs p).nextSeq } :: younger,
            nextSeq := (peek s.pwqs p).nextSeq + 1 }
        ports := poke s.ports p
          { peek s.ports p with postedCredit := (peek s.ports p).postedCredit - 1, lastWinner := .posted }
        downstreamLinks := poke s.downstreamLinks p
          (peek s.downstreamLinks p ++ [.postedWrite (peek s.pwqs p).nextSeq e.address e.length e.data]) } := by
  simp only [sendPosted, hq, markSent_append _ older younger e hsent hnone]
  rfl

/-- Settles O22: the entry is sent exactly when the arbiter grants the posted lane. -/
theorem postedLaneSendsItsOldestEntry : Obligations.PostedLaneSendsItsOldestEntry := by
  unfold Obligations.PostedLaneSendsItsOldestEntry
  intro p s r q heldBack rivalOffers
  refine ⟨fun older younger e hq hsent hnone => ?_,
    fun hall => exec_postedWriteSend_notGranted (.inr (oldestQueued_eq_none hall))⟩
  have he := oldestQueued_append hq hsent hnone
  have hheld : heldByLock p e.arrival s = true ↔ heldBack e := heldByLock_iff p e.arrival s
  have hposted := postedOffers_iff he
  rw [hheld] at hposted
  have hrival : r.state = .active → (nonPostedOffers p s = true ↔ rivalOffers) := fun hactive =>
    (nonPostedOffers_iff p s).trans (and_iff_right hactive)
  have hgrant := grantedLane_posted_iff p s
  refine ⟨fun hactive hcredit hfree hturn => ?_, fun hnot => exec_postedWriteSend_notGranted (.inl fun hg => ?_)⟩
  · have hgranted : grantedLane p s = some .posted := by
      refine hgrant.2 ⟨hposted.2 ⟨hactive, hcredit, hfree⟩, fun ⟨hoffers, hwinner⟩ => ?_⟩
      obtain hnone | hlast := hturn
      · exact hnone ((hrival hactive).1 hoffers)
      · exact (lane_ne_posted_iff _).2 hlast hwinner
    rw [exec_postedWriteSend_granted hgranted he, sendPosted_eq hq hsent hnone]
  · obtain ⟨hoffers, hturn⟩ := hgrant.1 hg
    obtain ⟨hactive, hcredit, hfree⟩ := hposted.1 hoffers
    obtain hnot | hnot | hnot | ⟨hoffers', hlast⟩ := hnot
    · exact hnot hactive
    · exact absurd hnot (Nat.ne_of_gt hcredit)
    · exact hfree hnot
    · exact hturn ⟨(hrival hactive).2 hoffers', hlast⟩

/-! ## The non-posted lane -/

theorem exec_nonPostedSend_granted {p : Port} {s : State} {i : SlotId} {rest : List SlotId} {u : SlotUse}
    (hgrant : grantedLane p s = some .nonPosted) (hd : peek s.dispatch p = i :: rest) (hu : slotUse s i = some u) :
    exec (.nonPostedSend p) s = .next (sendNonPosted p i u s) := by
  have hexec : exec (.nonPostedSend p) s = execNonPostedSend p s := rfl
  simp only [hexec, execNonPostedSend, hgrant, hd, hu]

theorem exec_nonPostedSend_notGranted {p : Port} {s : State} (h : grantedLane p s ≠ some .nonPosted) :
    exec (.nonPostedSend p) s = .next s := by
  have hexec : exec (.nonPostedSend p) s = execNonPostedSend p s := rfl
  rw [hexec, execNonPostedSend]
  split
  · next hgrant _ => exact absurd hgrant h
  · rfl

/-- R61, R64: the packet sent for a slot. -/
theorem downstreamRequest_eq (s : State) (i : SlotId) (u : SlotUse) :
    downstreamRequest s i u =
      match u.kind with
      | .read =>
        match u.fillLink with
        | some (.leader _) => .read (downstreamTag s i) (blockOf u.address) 256
        | _ => .read (downstreamTag s i) u.address u.length
      | .exclusiveRead => .read (downstreamTag s i) u.address u.length
      | .nonPostedWrite => .nonPostedWrite (downstreamTag s i) u.address u.length u.writeData
      | .exclusiveWrite => .nonPostedWrite (downstreamTag s i) u.address u.length u.writeData := by
  unfold downstreamRequest leadsFill
  cases u.kind with
  | read =>
    cases u.fillLink with
    | none => rfl
    | some l => cases l <;> rfl
  | nonPostedWrite => rfl
  | exclusiveRead => rfl
  | exclusiveWrite => rfl

/-- R62: a slot that stands once in a dispatch list, at its head, leaves the rest of it. -/
theorem without_head {α : Type} [DecidableEq α] {a : α} {l : List α} (h : a ∉ l) : without a (a :: l) = l := by
  have hrest : l.filter (fun b => b ≠ a) = l := List.filter_eq_self.2 fun b hb => by
    simpa using fun hba : b = a => h (hba ▸ hb)
  simpa [without] using hrest

/-- R63: the whole effect of a send on the non-posted lane. -/
theorem sendNonPosted_eq {p : Port} {s : State} {i : SlotId} {rest : List SlotId} (u : SlotUse)
    (hd : peek s.dispatch p = i :: rest) (hi : i ∉ rest) :
    sendNonPosted p i u s =
      { s with
        dispatch := poke s.dispatch p rest
        slots := poke s.slots i { epoch := (peek s.slots i).epoch, use := some { u with state := .sent } }
        ports := poke s.ports p
          { peek s.ports p with nonPostedCredit := (peek s.ports p).nonPostedCredit - 1, lastWinner := .nonPosted }
        downstreamLinks := poke s.downstreamLinks p (peek s.downstreamLinks p ++ [downstreamRequest s i u]) } := by
  simp only [sendNonPosted, hd, without_head hi]
  rfl

/-- Settles O23: the slot is sent exactly when the arbiter grants the non-posted lane. -/
theorem nonPostedLaneSendsItsOldestSlot : Obligations.NonPostedLaneSendsItsOldestSlot := by
  unfold Obligations.NonPostedLaneSendsItsOldestSlot
  refine ⟨fun p s hempty => exec_nonPostedSend_notGranted fun hg => ?_, ?_⟩
  · exact ((nonPostedOffers_iff p s).1 ((grantedLane_nonPosted_iff p s).1 hg).1).2.2 hempty
  intro p i rest u s hd hi hu r tag heldBack rivalOffers
  have hheld : ∀ e : QueueEntry, heldByLock p e.arrival s = true ↔ heldBack e := fun e => heldByLock_iff p e.arrival s
  have hrival : r.state = .active → (postedOffers p s = true ↔ rivalOffers) := by
    intro hactive
    constructor
    · intro hoffers
      cases he : oldestQueued p s with
      | none => simp [postedOffers, he] at hoffers
      | some e =>
        obtain ⟨-, hcredit, hfree⟩ := (postedOffers_iff he).1 hoffers
        obtain ⟨older, younger, hq, hsent, hnone⟩ := oldestQueued_eq_some_iff.1 he
        exact ⟨hcredit, older, e, younger, hq, hsent, hnone, fun h => hfree ((hheld e).2 h)⟩
    · rintro ⟨hcredit, older, e, younger, hq, hsent, hnone, hfree⟩
      exact (postedOffers_iff (oldestQueued_append hq hsent hnone)).2 ⟨hactive, hcredit, fun h => hfree ((hheld e).1 h)⟩
  have hgrant := grantedLane_nonPosted_iff p s
  have hnonPosted := nonPostedOffers_iff p s
  refine ⟨fun hactive hcredit hturn => ?_, fun hnot => exec_nonPostedSend_notGranted fun hg => ?_⟩
  · have hgranted : grantedLane p s = some .nonPosted := by
      refine hgrant.2 ⟨hnonPosted.2 ⟨hactive, hcredit, by rw [hd]; exact List.cons_ne_nil i rest⟩, fun hoffers => ?_⟩
      exact hturn.resolve_left fun hno => hno ((hrival hactive).1 hoffers)
    rw [exec_nonPostedSend_granted hgranted hd hu, sendNonPosted_eq u hd hi, downstreamRequest_eq, downstreamTag_eq] <;> rfl
  · obtain ⟨hoffers, hturn⟩ := hgrant.1 hg
    obtain ⟨hactive, hcredit, -⟩ := hnonPosted.1 hoffers
    obtain hnot | hnot | ⟨hrivals, hlast⟩ := hnot
    · exact hnot hactive
    · exact absurd hnot (Nat.ne_of_gt hcredit)
    · exact (lane_ne_posted_iff _).2 hlast (hturn ((hrival hactive).2 hrivals))

end Sys2Proof.Machine
end

section
/-! PROOFS. The receipts (R48, R49). -/

namespace Sys2Proof.Machine

/-- R129: a message that reaches an Active port is taken. -/
theorem ifActive_active {p : Port} {act : State → State} {s : State} (h : (peek s.ports p).state = .active) :
    ifActive p act s = act s := if_pos ((isActive_iff p s).2 h)

/-- R129: a message that reaches any other port is discarded. -/
theorem ifActive_inactive {p : Port} {act : State → State} {s : State} (h : (peek s.ports p).state ≠ .active) :
    ifActive p act s = s := if_neg fun ha => h ((isActive_iff p s).1 ha)

/-- R49: the oldest Sent entry leaves its queue, and the entries before and after it stay. -/
theorem retire_eq {p : Port} {s : State} {older younger : List QueueEntry} {e : QueueEntry}
    (hq : (peek s.pwqs p).entries = older ++ e :: younger) (he : e ∉ older) :
    retire p e s =
      testFences [] (lookUpHead
        (countDown e.generation
          { s with pwqs := poke s.pwqs p { peek s.pwqs p with entries := older ++ younger } })) := by
  have herase : (peek s.pwqs p).entries.erase e = older ++ younger := by
    rw [hq, List.erase_append_right _ he, List.erase_cons_head]
  simp only [retire, herase]

/-- R48: a receipt with the number of the oldest Sent entry retires it. -/
theorem takeReceipt_matches {p : Port} {seq : WriteSeq} {s : State} {e : QueueEntry} (h : oldestSent p s = some e)
    (he : e.sent = some seq) : takeReceipt p seq s = retire p e s := by
  simp only [takeReceipt, h, he, if_true]

/-- R48: any other receipt is bad. -/
theorem takeReceipt_bad {p : Port} {seq : WriteSeq} {s : State} (h : ∀ e, oldestSent p s = some e → e.sent ≠ some seq) :
    takeReceipt p seq s = failPort p .badReceipt none s := by
  unfold takeReceipt
  split
  · next e he => rw [if_neg (h e he)]
  · rfl

theorem exec_receipt (p : Port) (seq : WriteSeq) (s : State) :
    exec (.receipt p seq) s = .next (raiseOnFirstRecord s (ifActive p (takeReceipt p seq) s)) := rfl

/-- Settles O26. -/
theorem receiptRetiresTheOldestSentEntry : Obligations.ReceiptRetiresTheOldestSentEntry := by
  unfold Obligations.ReceiptRetiresTheOldestSentEntry
  intro p seq s q
  refine ⟨fun hactive => ⟨fun older younger e hq hqueued hsent => ?_, fun hbad => ?_⟩, fun hinactive => ?_⟩
  · have holdest : oldestSent p s = some e :=
      List.find?_eq_some_iff_append.2 ⟨by rw [hsent]; rfl, older, younger, hq, fun x hx => by simp [hqueued x hx]⟩
    have hnew : e ∉ older := fun hmem => by
      rw [hqueued e hmem] at hsent
      cases hsent
    rw [exec_receipt, ifActive_active hactive, takeReceipt_matches holdest hsent, retire_eq hq hnew]
  · rw [exec_receipt, ifActive_active hactive, takeReceipt_bad hbad]
  · rw [exec_receipt, ifActive_inactive hinactive, raiseOnFirstRecord_same rfl]

end Sys2Proof.Machine
end

section
/-! PROOFS. What the steps of a port exit leave alone once the port is out of service: no slot of it leaves a waiting state but to be
freed, no buffer becomes VALID, nothing joins its queue, and no record goes (R51, R60, R74, R106, R138). -/

namespace Sys2Proof.Machine

/-- A state in which a slot waits: for a lock, for a fence, or for a fill that it follows (R55). -/
def Waits (st : SlotState) : Prop := st = .lockWait ∨ st = .fenceWait ∨ st = .fillWait

/-- One record of a slot becomes another: its port and the mark of log 12 stay, and at port `p` it can only come to wait. -/
structure UseFollows (p : Port) (v u : SlotUse) : Prop where
  port : u.port = v.port
  exited : u.exited = v.exited
  state : u.port = p → u.state = v.state ∨ Waits u.state

namespace UseFollows

variable {p : Port} {u v w : SlotUse}

theorem refl (u : SlotUse) : UseFollows p u u := ⟨rfl, rfl, fun _ => .inl rfl⟩

theorem trans (h : UseFollows p w v) (k : UseFollows p v u) : UseFollows p w u := by
  refine ⟨k.port.trans h.port, k.exited.trans h.exited, fun hp => ?_⟩
  obtain hk | hk := k.state hp
  · rw [hk]
    exact h.state (k.port ▸ hp)
  · exact .inr hk

end UseFollows

/-- What the work of an exit does to the port that is gone: only what is left of it goes away. -/
structure Subsides (p : Port) (s t : State) : Prop where
  ports : t.ports = s.ports
  records : s.records <+: t.records
  queue : peek t.pwqs p = peek s.pwqs p
  valid : ∀ b k block, peek t.buffers b = .valid k block → peek s.buffers b = .valid k block
  slots : ∀ i u, slotUse t i = some u → ∃ v, slotUse s i = some v ∧ UseFollows p v u

/-- An operation under which a port that is out of service subsides. -/
def Settles (p : Port) (s t : State) : Prop := portInService p s = false → Subsides p s t

namespace Settles

variable {p : Port}

theorem refl (s : State) : Settles p s s := fun _ =>
  ⟨rfl, List.prefix_rfl, rfl, fun _ _ _ h => h, fun _ u h => ⟨u, h, .refl u⟩⟩

theorem trans {a b c : State} (h : Settles p a b) (k : Settles p b c) : Settles p a c := by
  intro hout
  have hab := h hout
  have hbc := k ((portInService_congr hab.ports p).trans hout)
  refine ⟨hbc.ports.trans hab.ports, hab.records.trans hbc.records, hbc.queue.trans hab.queue,
    fun i key block hv => hab.valid _ _ _ (hbc.valid i key block hv), fun i u hu => ?_⟩
  obtain ⟨v, hv, hvu⟩ := hbc.slots i u hu
  obtain ⟨w, hw, hwv⟩ := hab.slots i v hv
  exact ⟨w, hw, hwv.trans hvu⟩

theorem fold {α : Type} (f : State → α → State) (h : ∀ s x, Settles p s (f s x)) (l : List α) (s : State) :
    Settles p s (l.foldl f s) := fold_keeps Settles.refl Settles.trans f h l s

/-- An operation may be followed up with the port known to be out of service. -/
theorem of_outOfService {s t : State} (h : portInService p s = false → Settles p s t) : Settles p s t :=
  fun hout => h hout hout

/-- Within a frame the exit of a port needs to know the buffers and the slots alone. -/
theorem of_frame {s t : State} (h : LockFrame s t) (hbuffers : t.buffers = s.buffers) (hslots : t.slots = s.slots) :
    Settles p s t := fun _ => by
  refine ⟨h.ports, by rw [h.records], by rw [h.pwqs], fun b k block hv => by rwa [hbuffers] at hv, fun i u hu => ?_⟩
  rw [slotUse, hslots] at hu
  exact ⟨u, hu, .refl u⟩

/-- An operation run on a state that differs neither in buffers nor in slots. -/
theorem from_frame {s t r : State} (k : Settles p t r) (h : LockFrame s t) (hbuffers : t.buffers = s.buffers)
    (hslots : t.slots = s.slots) : Settles p s r := (of_frame h hbuffers hslots).trans k

theorem setUse {i : SlotId} {u v : SlotUse} {s : State} (hv : slotUse s i = some v) (h : UseFollows p v u) :
    Settles p s (putUse i (some u) s) := fun _ => by
  refine ⟨rfl, List.prefix_rfl, rfl, fun _ _ _ hb => hb, fun j w hw => ?_⟩
  by_cases hij : i = j
  · subst hij
    rw [slotUse_putUse_same] at hw
    cases hw
    exact ⟨v, hv, h⟩
  · rw [slotUse_putUse_ne _ _ hij] at hw
    exact ⟨w, hw, .refl w⟩

theorem dropUse (i : SlotId) (s : State) : Settles p s (putUse i none s) := fun _ => by
  refine ⟨rfl, List.prefix_rfl, rfl, fun _ _ _ hb => hb, fun j w hw => ?_⟩
  by_cases hij : i = j
  · subst hij
    rw [slotUse_putUse_same] at hw
    cases hw
  · rw [slotUse_putUse_ne _ _ hij] at hw
    exact ⟨w, hw, .refl w⟩

theorem setBuffers {s : State} {buffers : Vector Buffer 8} {lru : List BufferId}
    (h : ∀ b k block, peek buffers b = .valid k block → peek s.buffers b = .valid k block) :
    Settles p s { s with buffers := buffers, lru := lru } := fun _ =>
  ⟨rfl, List.prefix_rfl, rfl, h, fun _ u hu => ⟨u, hu, .refl u⟩⟩

theorem setBuffer {b : BufferId} {x : Buffer} {s : State}
    (h : ∀ k block, x = .valid k block → peek s.buffers b = .valid k block) : Settles p s (putBuffer b x s) := by
  refine setBuffers fun c k block hc => ?_
  rw [peek_poke] at hc
  split at hc
  · next hbc => subst hbc; exact h k block hc
  · exact hc

end Settles

/-! ## Answers and fills -/

section Steps

variable {p : Port}

theorem storeRecord_settles (x : RecordBody) (s : State) : Settles p s (storeRecord x s) := fun _ => by
  refine ⟨storeRecord_ports x s, ?_, by rw [storeRecord_pwqs], fun b k block h => by rwa [storeRecord_buffers] at h,
    fun i u hu => ?_⟩
  · unfold storeRecord
    split
    · exact List.prefix_append _ _
    · exact List.prefix_rfl
  · rw [slotUse, storeRecord_slots] at hu
    exact ⟨u, hu, .refl u⟩

theorem countDown_settles (g : Generation) (s : State) : Settles p s (countDown g s) :=
  .of_frame (countDown_frame g s).toTracker.toLock (countDown_frame g s).buffers (countDown_slots g s)

theorem freeSlot_settles (i : SlotId) (s : State) : Settles p s (freeSlot i s) := by
  unfold freeSlot
  split
  · exact .refl s
  · exact (Settles.dropUse i s).trans (countDown_settles _ _)

theorem reply_settles (u : SlotUse) (st : Status) (data : List Byte) (s : State) : Settles p s (reply u st data s) := by
  unfold reply
  split
  · exact .refl s
  · exact .of_frame rfl rfl rfl

theorem answerSlot_settles (i : SlotId) (st : Status) (data : List Byte) (s : State) :
    Settles p s (answerSlot i st data s) := by
  unfold answerSlot
  split
  · exact .refl s
  · exact (reply_settles _ st data s).trans (freeSlot_settles i _)

theorem answerFollowersFailed_settles (st : Status) (l : List SlotId) (s : State) :
    Settles p s (answerFollowersFailed st l s) := by
  refine .fold _ (fun s i => ?_) l s
  split
  · exact answerSlot_settles i _ _ s
  · exact .refl s

theorem endFillFailed_settles (b : BufferId) (st : Status) (s : State) : Settles p s (endFillFailed b st s) := by
  have hfree : Settles p s (putBuffer b .free s) := .setBuffer nofun
  unfold endFillFailed
  split
  · exact hfree.trans (answerFollowersFailed_settles st _ _)
  · exact hfree.trans (answerFollowersFailed_settles st _ _)
  · exact .refl s
  · exact .refl s

theorem endLedFill_settles (u : SlotUse) (st : Status) (s : State) : Settles p s (endLedFill u st s) := by
  unfold endLedFill
  split
  · exact endFillFailed_settles _ st s
  · exact .refl s
  · exact .refl s

theorem failSlot_settles (i : SlotId) (st : Status) (s : State) : Settles p s (failSlot i st s) := by
  unfold failSlot
  split
  · exact .refl s
  · exact (answerSlot_settles i st _ s).trans (endLedFill_settles _ st _)

/-! ## The ready point: a slot of another port goes on, a slot of this one is answered (R60) -/

variable {i : SlotId} {u : SlotUse} {s : State}

theorem enterReady_settles (hu : slotUse s i = some u) (hp : u.port ≠ p) : Settles p s (enterReady i s) := by
  simp only [enterReady, hu]
  exact (Settles.setUse (u := { u with state := .ready }) hu ⟨rfl, rfl, fun h => absurd h hp⟩).trans (.of_frame rfl rfl rfl)

theorem followFill_settles (b : BufferId) (hu : slotUse s i = some u) : Settles p s (followFill b i u s) := by
  refine (Settles.setUse (u := { u with state := .fillWait, fillLink := some (.follower b) }) hu
    ⟨rfl, rfl, fun _ => .inr (.inr (.inr rfl))⟩).trans ?_
  unfold followFill
  dsimp only
  split
  · exact .setBuffer nofun
  · exact .refl _
  · exact .refl _
  · exact .refl _

theorem leadFill_settles (b : BufferId) (hu : slotUse s i = some u) (hp : u.port ≠ p) : Settles p s (leadFill b i u s) := by
  refine (Settles.setUse (u := { u with fillLink := some (.leader b), received := List.replicate 256 none }) hu
    ⟨rfl, rfl, fun _ => .inl rfl⟩).trans ?_
  refine (Settles.setBuffer (b := b) (x := .filling (keyOf u.port u.address) i []) nofun).trans ?_
  unfold leadFill
  refine Settles.trans ?_ (enterReady_settles
    (u := { u with fillLink := some (.leader b), received := List.replicate 256 none }) ?_ hp)
  · exact .of_frame rfl rfl rfl
  · exact slotUse_putUse_same i _ s

theorem readFromBuffers_settles (hu : slotUse s i = some u) (hp : u.port ≠ p) : Settles p s (readFromBuffers i u s) := by
  unfold readFromBuffers
  split
  · exact (answerSlot_settles i _ _ _).from_frame (touchBuffer_frame _ s).toLock rfl rfl
  · split
    · exact followFill_settles _ hu
    · split
      · exact enterReady_settles hu hp
      · split
        · exact leadFill_settles _ hu hp
        · exact enterReady_settles hu hp

variable (i s) in
theorem readyPoint_settles : Settles p s (readyPoint i s) := by
  refine .of_outOfService fun hout => ?_
  unfold readyPoint
  split
  · exact .refl s
  · next u hu =>
    split
    · exact failSlot_settles i _ s
    · next hstays =>
      have hp : u.port ≠ p := by
        rintro rfl
        simp [lostAtReadyPoint, hout] at hstays
      split
      · exact enterReady_settles hu hp
      · split
        · exact readFromBuffers_settles hu hp
        · exact enterReady_settles hu hp

/-! ## Fences, locks and waiting orders -/

theorem enterFenceWait_settles (hu : slotUse s i = some u) : Settles p s (enterFenceWait i u s) :=
  (Settles.setUse (u := { u with state := .fenceWait }) hu ⟨rfl, rfl, fun _ => .inr (.inr (.inl rfl))⟩).trans
    (.of_frame rfl rfl rfl)

variable (i s) in
theorem meetFence_settles : Settles p s (meetFence i s) := by
  unfold meetFence
  split
  · exact .refl s
  · next u hu =>
    split
    · exact enterFenceWait_settles hu
    · exact readyPoint_settles i s

/-- R71: a follower list that loses a slot is not that of a VALID buffer. -/
theorem leaveLists_settles (i : SlotId) (u : SlotUse) (s : State) : Settles p s (leaveLists i u s) := by
  unfold leaveLists
  split
  · exact .of_frame rfl rfl rfl
  · exact .of_frame rfl rfl rfl
  · exact .of_frame rfl rfl rfl
  · split
    · next b _ =>
      refine .setBuffer (b := b) fun k block h => ?_
      split at h
      · cases h
      · cases h
      · exact h
    · exact .refl s
  · exact .refl s
  · exact .refl s
  · exact .refl s

theorem enterLockWait_settles (i : SlotId) (s : State) : Settles p s (enterLockWait i s) := by
  unfold enterLockWait
  split
  · exact .refl s
  · next u hu =>
    exact (Settles.setUse (u := { u with state := .lockWait }) hu ⟨rfl, rfl, fun _ => .inr (.inl rfl)⟩).trans
      (.of_frame rfl rfl rfl)

theorem moveToLockWait_settles (i : SlotId) (s : State) : Settles p s (moveToLockWait i s) := by
  unfold moveToLockWait
  split
  · exact .refl s
  · exact (leaveLists_settles i _ s).trans (enterLockWait_settles i _)

theorem claimLock_settles (q : Port) (i : SlotId) (u : SlotUse) (s : State) : Settles p s (claimLock q i u s) := by
  unfold claimLock
  exact (Settles.fold _ (fun s j => moveToLockWait_settles j s) _ _).from_frame (putLock_frame q _ s) rfl rfl

theorem releaseFromWaiting_settles (q : Port) (i : SlotId) (s : State) : Settles p s (releaseFromWaiting q i s) :=
  (meetFence_settles i _).from_frame rfl rfl rfl

theorem claimFromWaiting_settles (q : Port) (i : SlotId) (u : SlotUse) (s : State) :
    Settles p s (claimFromWaiting q i u s) :=
  ((claimLock_settles q i u _).trans (meetFence_settles i _)).from_frame rfl rfl rfl

theorem processOrder_settles {reopen : State → State} (h : ∀ s, Settles p s (reopen s)) (q : Port) (l : List SlotId) :
    ∀ s, Settles p s (processOrder reopen q l s) := by
  induction l with
  | nil => exact .refl
  | cons i rest ih =>
    intro s
    unfold processOrder
    split
    · exact ih s
    · split
      · dsimp only
        split
        · exact (claimFromWaiting_settles q i _ s).trans (h _)
        · exact (claimFromWaiting_settles q i _ s).trans (.fold _ (fun s j => releaseFromWaiting_settles q j s) _ _)
      · exact (releaseFromWaiting_settles q i s).trans (ih _)

theorem openLockWithin_settles (n : Nat) (q : Port) : ∀ s, Settles p s (openLockWithin n q s) := by
  induction n with
  | zero => exact fun s => .of_frame (putLock_frame q _ s) rfl rfl
  | succ n ih => exact fun s => (processOrder_settles ih q _ _).from_frame (putLock_frame q _ s) rfl rfl

theorem lockActs_settles (i : SlotId) (q : Port) (st : Status) (s : State) : Settles p s (lockActs i q st s) := by
  unfold lockActs
  split
  · split
    · split
      · exact .of_frame (putLock_frame q _ s) rfl rfl
      · exact openLockWithin_settles 64 q s
    · exact .refl s
  · exact .refl s
  · exact .refl s

theorem takeTurn_settles (i : SlotId) (s : State) : Settles p s (takeTurn i s) := by
  unfold takeTurn
  split
  · exact .refl s
  · split
    · split
      · exact (readyPoint_settles i s).trans (lockActs_settles i _ _ _)
      · exact readyPoint_settles i s
    · exact .refl s

theorem testFences_settles (others : List SlotId) (s : State) : Settles p s (testFences others s) := by
  unfold testFences
  exact (Settles.fold _ (fun s i => takeTurn_settles i s) _ _).from_frame rfl rfl rfl

/-! ## The posted intake and the exit's own steps -/

/-- R104: a withdrawal makes no buffer VALID. -/
theorem withdrawBlock_settles (key : BufferKey) (s : State) : Settles p s (withdrawBlock key s) := by
  refine .setBuffers fun b k block h => ?_
  rw [peek_map] at h
  cases hb : peek s.buffers b <;> rw [hb] at h <;> split at h <;> first | exact h | cases h

/-- R8 row 4: no entry joins the queue of a port that is out of service. -/
theorem enqueuePosted_settles (e : PostedEntry) {r : DecodeRecord} {s : State} (h : portInService r.port s = true) :
    Settles p s (enqueuePosted e r s) := by
  refine Settles.trans ?_ (withdrawBlock_settles _ _)
  intro hout
  have hp : r.port ≠ p := by
    rintro rfl
    rw [hout] at h
    cases h
  exact ⟨rfl, List.prefix_rfl, peek_poke_ne _ _ hp, fun _ _ _ hb => hb, fun _ u hu => ⟨u, hu, .refl u⟩⟩

theorem takePosted_settles (e : PostedEntry) {d : Decoded} {s : State}
    (h : ∀ r, d = .work r → portInService r.port s = true) : Settles p s (takePosted e d s) := by
  unfold takePosted
  split
  · split
    · exact storeRecord_settles _ s
    · exact .refl s
  · exact storeRecord_settles _ s
  · exact .refl s
  · exact storeRecord_settles _ s
  · exact enqueuePosted_settles e (h _ rfl)
  · exact .refl s
  · exact .refl s
  · exact .refl s

/-- A head that leaves the intake. -/
theorem setPostedIntake_settles (l : List PostedEntry) (s : State) : Settles p s { s with postedIntake := l } := fun _ =>
  ⟨rfl, List.prefix_rfl, rfl, fun _ _ _ h => h, fun _ u h => ⟨u, h, .refl u⟩⟩

theorem lookUpHead_settles (s : State) : Settles p s (lookUpHead s) := by
  refine exitPostedHeads_keeps Settles.refl Settles.trans (fun e d s hd rest => ?_) _ s
  have htake := takePosted_settles (p := p) (s := { s with postedIntake := rest }) e hd
  exact (setPostedIntake_settles rest s).trans (htake.trans (.of_frame rfl rfl rfl))

theorem breakLock_settles (q : Port) (c : BreakCause) (s : State) : Settles p s (breakLock q c s) := by
  unfold breakLock
  split
  · exact .refl s
  · exact (storeRecord_settles _ _).from_frame (putLock_frame q _ s) rfl rfl
  · refine Settles.trans ?_ (storeRecord_settles _ _)
    exact fun _ => ⟨rfl, List.prefix_rfl, rfl, fun _ _ _ h => h, fun _ u h => ⟨u, h, .refl u⟩⟩

theorem meetFenceAtExit_settles (i : SlotId) (s : State) : Settles p s (meetFenceAtExit i s) := by
  unfold meetFenceAtExit
  split
  · exact .refl s
  · next u hu =>
    split
    · exact enterFenceWait_settles hu
    · exact .refl s

theorem breakAtExit_settles (q : Port) (c : BreakCause) (s : State) : Settles p s (breakAtExit q c s) := by
  unfold breakAtExit
  split
  · refine (breakLock_settles q c s).trans ?_
    exact (Settles.fold _ (fun s i => meetFenceAtExit_settles i s) _ _).from_frame rfl rfl rfl
  · exact .refl s

theorem lostAtExit_settles (i : SlotId) (s : State) : Settles p s (lostAtExit i s) := by
  unfold lostAtExit
  split
  · exact .refl s
  · exact (leaveLists_settles i _ s).trans (failSlot_settles i _ _)

end Steps

end Sys2Proof.Machine
end

section
/-! PROOFS. The locks through a port exit: its own lock is broken, and another port's lock changes only if the fence test answers its
claiming read PortLost (R60, R113, R120; log 12). -/

namespace Sys2Proof.Machine

/-! ## Only one port's lock -/

/-- No other port's lock changes. -/
def OnlyLock (p : Port) (s t : State) : Prop := ∀ q, q ≠ p → peek t.locks q = peek s.locks q

namespace OnlyLock

variable {p : Port}

theorem refl (s : State) : OnlyLock p s s := fun _ _ => rfl

theorem trans {a b c : State} (h : OnlyLock p a b) (k : OnlyLock p b c) : OnlyLock p a c :=
  fun q hq => (k q hq).trans (h q hq)

theorem fold {α : Type} (f : State → α → State) (h : ∀ s x, OnlyLock p s (f s x)) (l : List α) (s : State) :
    OnlyLock p s (l.foldl f s) := fold_keeps OnlyLock.refl OnlyLock.trans f h l s

theorem of_same {s t : State} (h : t.locks = s.locks) : OnlyLock p s t := fun _ _ => by rw [h]

end OnlyLock

section OneLock

variable {p : Port}

theorem putLock_onlyLock (l : Lock) (s : State) : OnlyLock p s (putLock p l s) :=
  fun _ hq => peek_poke_ne _ _ (Ne.symm hq)

theorem leaveLists_locks (i : SlotId) (u : SlotUse) (s : State) : (leaveLists i u s).locks = s.locks := by
  unfold leaveLists
  repeat' split
  all_goals rfl

theorem moveToLockWait_locks (i : SlotId) (s : State) : (moveToLockWait i s).locks = s.locks := by
  unfold moveToLockWait
  split
  · rfl
  · rw [← leaveLists_locks i _ s]
    unfold enterLockWait
    split <;> rfl

theorem claimLock_onlyLock (i : SlotId) (u : SlotUse) (s : State) : OnlyLock p s (claimLock p i u s) := by
  unfold claimLock
  exact (putLock_onlyLock _ s).trans (.fold _ (fun s j => .of_same (moveToLockWait_locks j s)) _ _)

theorem releaseFromWaiting_locks (i : SlotId) (s : State) : (releaseFromWaiting p i s).locks = s.locks :=
  (meetFence_frame i _).locks

theorem claimFromWaiting_onlyLock (i : SlotId) (u : SlotUse) (s : State) : OnlyLock p s (claimFromWaiting p i u s) := by
  refine OnlyLock.trans ?_ (.of_same (meetFence_frame i _).locks)
  exact fun q hq => claimLock_onlyLock i u _ q hq

theorem processOrder_onlyLock {reopen : State → State} (h : ∀ s, OnlyLock p s (reopen s)) (l : List SlotId) :
    ∀ s, OnlyLock p s (processOrder reopen p l s) := by
  induction l with
  | nil => exact .refl
  | cons i rest ih =>
    intro s
    unfold processOrder
    split
    · exact ih s
    · split
      · dsimp only
        split
        · exact (claimFromWaiting_onlyLock i _ s).trans (h _)
        · exact (claimFromWaiting_onlyLock i _ s).trans
            (.fold _ (fun s j => .of_same (releaseFromWaiting_locks j s)) _ _)
      · exact (OnlyLock.of_same (releaseFromWaiting_locks i s)).trans (ih _)

theorem openLockWithin_onlyLock (n : Nat) : ∀ s, OnlyLock p s (openLockWithin n p s) := by
  induction n with
  | zero => exact putLock_onlyLock .opened
  | succ n ih => exact fun s => (putLock_onlyLock .opened s).trans (processOrder_onlyLock ih _ _)

theorem lockActs_onlyLock (i : SlotId) (st : Status) (s : State) : OnlyLock p s (lockActs i p st s) := by
  unfold lockActs
  split
  · split
    · split
      · exact putLock_onlyLock _ s
      · exact openLockWithin_onlyLock 64 s
    · exact .refl s
  · exact .refl s
  · exact .refl s

end OneLock

/-- R113: the answer of a slot that a lock does not name changes no lock. -/
theorem lockActs_unclaimed {i : SlotId} {p : Port} {st : Status} {s : State}
    (h : ∀ owner claim, peek s.locks p ≠ .claimed owner claim i) : lockActs i p st s = s := by
  unfold lockActs
  split
  · next owner claim slot hlock =>
    rw [if_neg]
    rintro rfl
    exact h owner claim hlock
  · rfl
  · rfl

/-! ## A claim that no fence test ends -/

/-- The claiming slot that a port's lock names would not be answered PortLost at the ready point. -/
def ClaimStands (q : Port) (s : State) : Prop :=
  ∀ owner claim i u, peek s.locks q = .claimed owner claim i → slotUse s i = some u → u.port = q →
    u.exited = false ∧ portInService q s = true

theorem claimStands_opened {q : Port} {s : State} (h : peek s.locks q = .opened) : ClaimStands q s := by
  intro owner claim i u hclaimed
  rw [h] at hclaimed
  cases hclaimed

/-- R60, R113: a turn at the ready point leaves a lock whose claim stands. -/
theorem takeTurn_lock {q : Port} {s : State} (h : ClaimStands q s) (i : SlotId) :
    peek (takeTurn i s).locks q = peek s.locks q := by
  have hready : (readyPoint i s).locks = s.locks := (readyPoint_frame i s).locks
  unfold takeTurn
  split
  · rfl
  · next u hu =>
    split
    · split
      · next hlost =>
        by_cases hq : u.port = q
        · subst hq
          have hnot : ∀ owner claim, peek (readyPoint i s).locks u.port ≠ .claimed owner claim i := by
            intro owner claim hclaimed
            rw [hready] at hclaimed
            obtain ⟨hexited, hservice⟩ := h owner claim i u hclaimed hu rfl
            simp [lostAtReadyPoint, hexited, hservice] at hlost
          rw [lockActs_unclaimed hnot, hready]
        · rw [lockActs_onlyLock i .portLost _ q (Ne.symm hq), hready]
      · rw [hready]
    · rfl

/-- A claim stands as long as the lock does, while a port that is out of service subsides. -/
theorem ClaimStands.subsides {p q : Port} {s t : State} (h : ClaimStands q s) (k : Subsides p s t)
    (hlock : peek t.locks q = peek s.locks q) : ClaimStands q t := by
  intro owner claim i u hclaimed hu hport
  rw [hlock] at hclaimed
  obtain ⟨v, hv, hvu⟩ := k.slots i u hu
  rw [hvu.exited, portInService_congr k.ports]
  exact h owner claim i v hclaimed hv (hvu.port ▸ hport)

/-- R83: a fence test leaves a lock whose claim stands. -/
theorem testFences_lock {p q : Port} {s : State} (hout : portInService p s = false) (h : ClaimStands q s)
    (others : List SlotId) : peek (testFences others s).locks q = peek s.locks q := by
  have hturns : ∀ (l : List SlotId) (t : State), portInService p t = false → ClaimStands q t →
      peek (l.foldl (fun s i => takeTurn i s) t).locks q = peek t.locks q := by
    intro l
    induction l with
    | nil => exact fun t _ _ => rfl
    | cons i l ih =>
      intro t ht hclaim
      have hsubsides := takeTurn_settles i t ht
      have hlock := takeTurn_lock hclaim i
      rw [List.foldl_cons, ih _ ((portInService_congr hsubsides.ports p).trans ht) (hclaim.subsides hsubsides hlock), hlock]
  exact hturns _ _ hout h

/-! ## The exit's own lock -/

/-- R120: a break leaves the lock Open, and the other locks as they are. -/
theorem breakLock_locks (p : Port) (c : BreakCause) (s : State) : (breakLock p c s).locks = poke s.locks p .opened := by
  unfold breakLock
  split
  · next h => rw [← h, poke_peek_self]
  · rw [storeRecord_locks]
    rfl
  · rw [storeRecord_locks]
    rfl

theorem breakAtExit_locks (p : Port) (c : BreakCause) (s : State) :
    (breakAtExit p c s).locks = poke s.locks p .opened := by
  unfold breakAtExit
  split
  · exact (TrackerFrame.fold _ (fun s i => meetFenceAtExit_frame i s) _ _).locks.trans (breakLock_locks p c s)
  · next h =>
    have hopened : peek s.locks p = .opened := by
      cases hl : peek s.locks p <;> simp [lockOwner, hl] at h ⊢
    rw [← hopened, poke_peek_self]

theorem answerSlotsAtExit_locks (p : Port) (s : State) : (answerSlotsAtExit p s).locks = s.locks := by
  have hlost : ∀ i t, (lostAtExit i t).locks = t.locks := by
    intro i t
    unfold lostAtExit
    split
    · rfl
    · rw [(failSlot_frame i _ _).locks, leaveLists_locks]
  have hfold := fold_keeps (R := fun s t => t.locks = s.locks) (fun _ => rfl) (fun h k => k.trans h)
    (fun s i => lostAtExit i s) (fun t i => hlost i t)
  unfold answerSlotsAtExit
  exact (FreeFrame.fold _ (fun s i => freeSlot_frame i s) _ _).locks.trans (hfold _ _)

end Sys2Proof.Machine
end

section
/-! PROOFS. The slots that a port exit answers and frees (R74). -/

namespace Sys2Proof.Machine

/-! ## Slots that an answer frees -/

theorem freeSlot_frees (i : SlotId) (s : State) : slotUse (freeSlot i s) i = none := by
  unfold freeSlot
  split
  · next h => exact h
  · rw [slotUse, countDown_slots]
    exact slotUse_putUse_same i none s

theorem answerSlot_frees (i : SlotId) (st : Status) (data : List Byte) (s : State) :
    slotUse (answerSlot i st data s) i = none := by
  unfold answerSlot
  split
  · next h => exact h
  · exact freeSlot_frees i _

theorem failSlot_frees (i : SlotId) (st : Status) (s : State) : slotUse (failSlot i st s) i = none := by
  unfold failSlot
  split
  · next h => exact h
  · exact endLedFill_keepsFree _ st _ i (answerSlot_frees i st _ s)

theorem lostAtExit_frees (i : SlotId) (s : State) : slotUse (lostAtExit i s) i = none := by
  unfold lostAtExit
  split
  · next h => exact h
  · exact failSlot_frees i _ _

theorem lostAtExit_keepsFree (i : SlotId) (s : State) : KeepsFree s (lostAtExit i s) := by
  unfold lostAtExit
  split
  · exact .refl s
  · exact (KeepsFree.of_slots (leaveLists_slots i _ s)).trans (failSlot_keepsFree i _ _)

/-- Every slot of a list is FREE once each has been freed in turn. -/
theorem foldl_frees {f : State → SlotId → State} (hkeeps : ∀ s i, KeepsFree s (f s i)) (hfrees : ∀ s i, slotUse (f s i) i = none)
    {i : SlotId} (l : List SlotId) (h : i ∈ l) : ∀ s, slotUse (l.foldl f s) i = none := by
  induction l with
  | nil => exact absurd h List.not_mem_nil
  | cons j l ih =>
    intro s
    obtain rfl | h := List.mem_cons.1 h
    · exact KeepsFree.fold f hkeeps l _ i (hfrees s i)
    · exact ih h _

/-! ## Arrival-number positions -/

theorem mem_insertByArrival (number : SlotId → Arrival) (i j : SlotId) (l : List SlotId) :
    j ∈ insertByArrival number i l ↔ j = i ∨ j ∈ l := by
  induction l with
  | nil => simp [insertByArrival]
  | cons k l ih =>
    unfold insertByArrival
    split
    · simp
    · rw [List.mem_cons, ih, List.mem_cons]
      tauto

theorem mem_mergeByArrival (number : SlotId → Arrival) (j : SlotId) (others : List SlotId) :
    ∀ l, j ∈ mergeByArrival number others l ↔ j ∈ others ∨ j ∈ l := by
  induction others with
  | nil => simp [mergeByArrival]
  | cons i others ih =>
    intro l
    have hcons : mergeByArrival number (i :: others) l = mergeByArrival number others (insertByArrival number i l) := rfl
    rw [hcons, ih, mem_insertByArrival, List.mem_cons]
    tauto

/-! ## Step 5 of the exit -/

theorem endsAtExit_iff {p : Port} {s : State} {i : SlotId} {u : SlotUse} (hu : slotUse s i = some u) :
    endsAtExit p s i = true ↔ u.port = p ∧ (u.state = .ready ∨ u.state = .sent ∨ u.state = .assembling) := by
  simp [endsAtExit, hu, or_assoc]

theorem orphanOf_iff {p : Port} {s : State} {i : SlotId} {u : SlotUse} (hu : slotUse s i = some u) :
    orphanOf p s i = true ↔ u.port = p ∧ u.state = .orphaned := by
  simp [orphanOf, hu]

theorem slotState_cases (st : SlotState) :
    Waits st ∨ (st = .ready ∨ st = .sent ∨ st = .assembling) ∨ st = .orphaned := by
  cases st <;> simp [Waits]

theorem answerSlotsAtExit_settles {p : Port} (q : Port) (s : State) : Settles p s (answerSlotsAtExit q s) := by
  unfold answerSlotsAtExit
  exact (Settles.fold _ (fun s i => lostAtExit_settles i s) _ s).trans (.fold _ (fun s i => freeSlot_settles i s) _ _)

/-- R74: a slot of the port that is still in use once the others were answered and freed waits. -/
theorem answerSlotsAtExit_waits {p : Port} {s : State} (hout : portInService p s = false) {i : SlotId} {u : SlotUse}
    (hu : slotUse (answerSlotsAtExit p s) i = some u) (hp : u.port = p) : Waits u.state := by
  unfold answerSlotsAtExit at hu
  dsimp only at hu
  generalize hlost : (mergeByArrival (arrivalOf s) (allSlots.filter (endsAtExit p s)) []).foldl
    (fun s i => lostAtExit i s) s = t at hu
  have hst : Subsides p s t := hlost ▸ Settles.fold _ (fun s i => lostAtExit_settles i s) _ s hout
  have hout' : portInService p t = false := (portInService_congr hst.ports p).trans hout
  obtain ⟨v, hv, hvu⟩ := (Settles.fold (p := p) _ (fun s i => freeSlot_settles i s) _ t hout').slots i u hu
  obtain ⟨w, hw, hwv⟩ := hst.slots i v hv
  have hvp : v.port = p := hvu.port ▸ hp
  have hwp : w.port = p := hwv.port ▸ hvp
  have hnotEnding : ¬ endsAtExit p s i = true := by
    intro hends
    have hmem : i ∈ mergeByArrival (arrivalOf s) (allSlots.filter (endsAtExit p s)) [] :=
      (mem_mergeByArrival _ _ _ _).2 (.inl (List.mem_filter.2 ⟨List.mem_finRange i, hends⟩))
    have hfreed := foldl_frees (fun s i => lostAtExit_keepsFree i s) (fun s i => lostAtExit_frees i s) _ hmem s
    rw [hlost, hv] at hfreed
    cases hfreed
  have hnotOrphan : ¬ orphanOf p t i = true := by
    intro horphan
    have hmem : i ∈ allSlots.filter (orphanOf p t) := List.mem_filter.2 ⟨List.mem_finRange i, horphan⟩
    rw [foldl_frees (fun s i => freeSlot_keepsFree i s) (fun s i => freeSlot_frees i s) _ hmem t] at hu
    cases hu
  rw [endsAtExit_iff hw] at hnotEnding
  rw [orphanOf_iff hv] at hnotOrphan
  obtain huv | hwaits := hvu.state hp
  · rw [huv]
    obtain hvw | hwaits := hwv.state hvp
    · obtain hwaits | hends | horphan := slotState_cases v.state
      · exact hwaits
      · exact absurd ⟨hwp, hvw ▸ hends⟩ hnotEnding
      · exact absurd ⟨hvp, horphan⟩ hnotOrphan
    · exact hwaits
  · exact hwaits

end Sys2Proof.Machine
end

section
/-! PROOFS. A port exit whole: its stages, and what they leave of the port (R51, R74, R106, R121, R138). -/

namespace Sys2Proof.Machine

/-! ## The stages -/

/-- Steps 2 and 3, and the mark of the slots that wait (log 12). -/
def exitMarked (p : Port) (c : ExitCauses) (s : State) : State :=
  { freeValidBuffers p (discardQueue p c.discard s) with
    slots := (freeValidBuffers p (discardQueue p c.discard s)).slots.map (markWaiting p) }

/-- Steps 2 to 4. -/
def exitBroken (p : Port) (c : ExitCauses) (s : State) : State := breakAtExit p c.lock (exitMarked p c s)

/-- Steps 2 to 5. -/
def exitAnswered (p : Port) (c : ExitCauses) (s : State) : State := answerSlotsAtExit p (exitBroken p c s)

/-- R138: steps 6 and 7 after the others. -/
theorem portExit_eq (p : Port) (c : ExitCauses) (s : State) :
    portExit p c s =
      testFences ((releasedByBreak p (exitMarked p c s)).filter (fun i => decide (i ∉ (exitBroken p c s).fenceOrder)))
        (lookUpHead (exitAnswered p c s)) := rfl

theorem exitMarked_ports (p : Port) (c : ExitCauses) (s : State) : (exitMarked p c s).ports = s.ports :=
  (discardQueue_frame p c.discard s).ports

theorem exitMarked_locks (p : Port) (c : ExitCauses) (s : State) : (exitMarked p c s).locks = s.locks :=
  (discardQueue_frame p c.discard s).locks

theorem exitMarked_pwqs (p : Port) (c : ExitCauses) (s : State) :
    (exitMarked p c s).pwqs = poke s.pwqs p { peek s.pwqs p with entries := [] } := discardQueue_pwqs p c.discard s

theorem exitMarked_slots (p : Port) (c : ExitCauses) (s : State) :
    (exitMarked p c s).slots = s.slots.map (markWaiting p) := by
  rw [← discardQueue_slots p c.discard s]
  rfl

/-- R106: no buffer of the port is left VALID. -/
theorem exitMarked_buffers {p : Port} {c : ExitCauses} {s : State} {b : BufferId} {k : BufferKey} {block : List Byte}
    (h : peek (exitMarked p c s).buffers b = .valid k block) : k.port ≠ p := by
  have hbuffers : (exitMarked p c s).buffers = (freeValidBuffers p (discardQueue p c.discard s)).buffers := rfl
  rw [hbuffers, freeValidBuffers_eq, peek_map] at h
  split at h
  · split at h
    · cases h
    · next hport => cases h; exact hport
  · cases h
  · cases h
  · cases h

/-- R51, R52: a discard adds to the records. -/
theorem discardQueue_records (p : Port) (c : DiscardCause) (s : State) : s.records <+: (discardQueue p c s).records := by
  have hcounts := FreeFrame.fold (fun (s : State) (e : QueueEntry) => countDown e.generation s)
    (fun s e => countDown_frame e.generation s) (peek s.pwqs p).entries
    { s with pwqs := poke s.pwqs p { peek s.pwqs p with entries := [] } }
  unfold discardQueue
  dsimp only
  split
  · rw [hcounts.records]
  · unfold storeRecord
    split
    · dsimp only
      rw [hcounts.records]
      exact List.prefix_append _ _
    · dsimp only
      rw [hcounts.records]

/-- The mark leaves what it does not mark: another port's slot, and the state of every slot. -/
theorem slotUse_exitMarked {p : Port} {c : ExitCauses} {s : State} {i : SlotId} {u : SlotUse}
    (h : slotUse (exitMarked p c s) i = some u) (hp : u.port ≠ p) : slotUse s i = some u := by
  rw [slotUse, exitMarked_slots, peek_map, markWaiting_eq] at h
  obtain ⟨v, hv, hmark⟩ := Option.map_eq_some_iff.1 h
  have hvu : v = u := by
    split at hmark
    · next hwaits => subst hmark; exact absurd hwaits.1 hp
    · exact hmark
  rw [slotUse, hv, hvu]

section Exit

variable {p : Port} {s : State} (c : ExitCauses) (hout : portInService p s = false)

include hout

theorem exitMarked_outOfService : portInService p (exitMarked p c s) = false :=
  (portInService_congr (exitMarked_ports p c s) p).trans hout

theorem exitBroken_subsides : Subsides p (exitMarked p c s) (exitBroken p c s) :=
  breakAtExit_settles p c.lock _ (exitMarked_outOfService c hout)

theorem exitBroken_outOfService : portInService p (exitBroken p c s) = false :=
  (portInService_congr (exitBroken_subsides c hout).ports p).trans (exitMarked_outOfService c hout)

theorem exitAnswered_subsides : Subsides p (exitMarked p c s) (lookUpHead (exitAnswered p c s)) :=
  (Settles.trans (breakAtExit_settles p c.lock _) ((answerSlotsAtExit_settles p _).trans (lookUpHead_settles _)))
    (exitMarked_outOfService c hout)

theorem portExit_subsides : Subsides p (exitMarked p c s) (portExit p c s) := by
  rw [portExit_eq]
  exact (Settles.trans (fun _ => exitAnswered_subsides c hout) (testFences_settles _ _)) (exitMarked_outOfService c hout)

/-- R51: nothing joins the queue that the exit has emptied. -/
theorem portExit_queue : (peek (portExit p c s).pwqs p).entries = [] := by
  rw [(portExit_subsides c hout).queue, exitMarked_pwqs, peek_poke_same]

/-- R106. -/
theorem portExit_buffers {b : BufferId} {k : BufferKey} {block : List Byte}
    (h : peek (portExit p c s).buffers b = .valid k block) : k.port ≠ p :=
  exitMarked_buffers ((portExit_subsides c hout).valid b k block h)

/-- R52, R177: an exit adds to the records. -/
theorem portExit_records : s.records <+: (portExit p c s).records :=
  (discardQueue_records p c.discard s).trans (portExit_subsides c hout).records

/-- R74: a slot of the port that the exit leaves in use waits. -/
theorem portExit_slots {i : SlotId} {u : SlotUse} (hu : slotUse (portExit p c s) i = some u) (hp : u.port = p) :
    Waits u.state := by
  have hbroken := exitBroken_outOfService c hout
  have hanswered : Settles p (exitAnswered p c s) (portExit p c s) := by
    rw [portExit_eq]
    exact (lookUpHead_settles _).trans (testFences_settles _ _)
  have hout' : portInService p (exitAnswered p c s) = false :=
    (portInService_congr (answerSlotsAtExit_settles p _ hbroken).ports p).trans hbroken
  obtain ⟨v, hv, hvu⟩ := (hanswered hout').slots i u hu
  obtain hstate | hwaits := hvu.state hp
  · rw [hstate]
    exact answerSlotsAtExit_waits hbroken hv (hvu.port ▸ hp)
  · exact hwaits

omit hout in
theorem exitAnswered_locks : (lookUpHead (exitAnswered p c s)).locks = poke s.locks p .opened := by
  rw [(lookUpHead_frame _).locks, exitAnswered, answerSlotsAtExit_locks, exitBroken, breakAtExit_locks, exitMarked_locks]

theorem exitAnswered_outOfService : portInService p (lookUpHead (exitAnswered p c s)) = false :=
  (portInService_congr (exitAnswered_subsides c hout).ports p).trans (exitMarked_outOfService c hout)

/-- R121: the port's lock is Open after the exit. -/
theorem portExit_lock : peek (portExit p c s).locks p = .opened := by
  have hopened : peek (lookUpHead (exitAnswered p c s)).locks p = .opened := by
    rw [exitAnswered_locks, peek_poke_same]
  rw [portExit_eq, testFences_lock (exitAnswered_outOfService c hout) (claimStands_opened hopened), hopened]

/-- R113: the exit leaves the lock of another port whose claim stands. -/
theorem portExit_otherLock {q : Port} (hq : q ≠ p) (h : ClaimStands q s) :
    peek (portExit p c s).locks q = peek s.locks q := by
  have hlock : peek (lookUpHead (exitAnswered p c s)).locks q = peek s.locks q := by
    rw [exitAnswered_locks, peek_poke_ne _ _ (Ne.symm hq)]
  have hmarked : ClaimStands q (exitMarked p c s) := by
    intro owner claim i u hclaimed hu hport
    rw [exitMarked_locks] at hclaimed
    rw [portInService_congr (exitMarked_ports p c s)]
    exact h owner claim i u hclaimed (slotUse_exitMarked hu (hport ▸ hq)) hport
  have hstands := hmarked.subsides (exitAnswered_subsides c hout) (by rw [hlock, exitMarked_locks])
  rw [portExit_eq, testFences_lock (exitAnswered_outOfService c hout) hstands, hlock]

end Exit

end Sys2Proof.Machine
end

section
/-! PROOFS. What the failure of a port leaves (R136, R138, R186). -/

namespace Sys2Proof.Machine

/-! ## The state that the exit of a failed port works on -/

/-- A port Failed with its record stored; the exit follows (R136). -/
def portFailed (p : Port) (cause : FaultCause) (slot : Option SlotId) (s : State) : State :=
  storeRecord (.portFault p (peek s.ports p).state cause slot) (putPort p (failedRecord cause (peek s.ports p)) s)

theorem failPort_exits (p : Port) (cause : FaultCause) (slot : Option SlotId) (s : State) :
    failPort p cause slot s = portExit p ExitCauses.failure (portFailed p cause slot s) := failPort_eq p cause slot s

theorem portFailed_outOfService (p : Port) (cause : FaultCause) (slot : Option SlotId) (s : State) :
    portInService p (portFailed p cause slot s) = false := by
  rw [portFailed, portInService_congr (storeRecord_ports _ _), portInService_putPort, if_pos rfl]
  rfl

theorem portFailed_otherService {p q : Port} (h : q ≠ p) (cause : FaultCause) (slot : Option SlotId) (s : State) :
    portInService q (portFailed p cause slot s) = portInService q s := by
  rw [portFailed, portInService_congr (storeRecord_ports _ _), portInService_putPort, if_neg (Ne.symm h)]

theorem portFailed_locks (p : Port) (cause : FaultCause) (slot : Option SlotId) (s : State) :
    (portFailed p cause slot s).locks = s.locks := storeRecord_locks _ _

theorem slotUse_portFailed (p : Port) (cause : FaultCause) (slot : Option SlotId) (s : State) (i : SlotId) :
    slotUse (portFailed p cause slot s) i = slotUse s i := by
  rw [slotUse, portFailed, storeRecord_slots]
  rfl

/-- R186: the PortFault record comes before whatever the exit records. -/
theorem portFailed_records {p : Port} {cause : FaultCause} {slot : Option SlotId} {s : State} (h : s.records.length < 32) :
    (portFailed p cause slot s).records =
      s.records ++ [{ time := s.bridgeTime, body := .portFault p (peek s.ports p).state cause slot }] := by
  rw [portFailed, storeRecord_room (s := putPort p (failedRecord cause (peek s.ports p)) s) h]
  rfl

/-- The claim of another port's lock stands through the failure (R113; log 12). -/
theorem claimStands_portFailed {p q : Port} (hq : q ≠ p) (cause : FaultCause) (slot : Option SlotId) {s : State}
    (h : ∀ owner claim i u, peek s.locks q = .claimed owner claim i → slotUse s i = some u →
      u.exited = false ∧ portInService u.port s = true) : ClaimStands q (portFailed p cause slot s) := by
  intro owner claim i u hclaimed hu hport
  rw [portFailed_locks] at hclaimed
  rw [slotUse_portFailed] at hu
  rw [portFailed_otherService hq]
  obtain ⟨hexited, hservice⟩ := h owner claim i u hclaimed hu
  exact ⟨hexited, hport ▸ hservice⟩

/-! ## The failure whole -/

section Failure

variable (p : Port) (cause : FaultCause) (slot : Option SlotId) (s : State)

theorem failPort_port : peek (failPort p cause slot s).ports p = failedRecord cause (peek s.ports p) := by
  rw [(failPort_frame p cause slot s).ports, putPort_ports, peek_poke_same]

theorem failPort_otherPort {q : Port} (h : q ≠ p) : peek (failPort p cause slot s).ports q = peek s.ports q := by
  rw [(failPort_frame p cause slot s).ports, putPort_ports, peek_poke_ne _ _ (Ne.symm h)]

theorem failPort_firstRecord {s : State} (h : s.records.length < 32) :
    (failPort p cause slot s).records.take (s.records.length + 1) =
      s.records ++ [{ time := s.bridgeTime, body := .portFault p (peek s.ports p).state cause slot }] := by
  obtain ⟨tail, htail⟩ := portExit_records ExitCauses.failure (portFailed_outOfService p cause slot s)
  rw [failPort_exits, ← htail, portFailed_records h]
  exact List.take_left' (by rw [List.length_append, List.length_singleton])

theorem failPort_queue : (peek (failPort p cause slot s).pwqs p).entries = [] := by
  rw [failPort_exits]
  exact portExit_queue _ (portFailed_outOfService p cause slot s)

theorem failPort_lock : peek (failPort p cause slot s).locks p = .opened := by
  rw [failPort_exits]
  exact portExit_lock _ (portFailed_outOfService p cause slot s)

theorem failPort_otherLock {q : Port} {s : State} (hq : q ≠ p)
    (h : ∀ owner claim i u, peek s.locks q = .claimed owner claim i → slotUse s i = some u →
      u.exited = false ∧ portInService u.port s = true) :
    peek (failPort p cause slot s).locks q = peek s.locks q := by
  rw [failPort_exits, portExit_otherLock _ (portFailed_outOfService p cause slot s) hq (claimStands_portFailed hq cause slot h),
    portFailed_locks]

theorem failPort_buffers {b : BufferId} {k : BufferKey} {block : List Byte}
    (h : peek (failPort p cause slot s).buffers b = .valid k block) : k.port ≠ p := by
  rw [failPort_exits] at h
  exact portExit_buffers _ (portFailed_outOfService p cause slot s) h

theorem failPort_slots {i : SlotId} {u : SlotUse} (hu : slotUse (failPort p cause slot s) i = some u) (hp : u.port = p) :
    Waits u.state := by
  rw [failPort_exits] at hu
  exact portExit_slots _ (portFailed_outOfService p cause slot s) hu hp

end Failure

theorem exec_malformedMessage {p : Port} {s : State} (h : (peek s.ports p).state = .active) :
    exec (.malformedMessage p) s = .next (raiseOnFirstRecord s (failPort p .malformedMessage none s)) := by
  have hexec : exec (.malformedMessage p) s =
      .next (raiseOnFirstRecord s (ifActive p (failPort p .malformedMessage none) s)) := rfl
  rw [hexec, ifActive_active h]

theorem exec_portLinkFault {p : Port} {s : State} (h : portInService p s = true) :
    exec (.portLinkFault p) s = .next (raiseOnFirstRecord s (failPort p .linkFault none s)) := by
  have hexec : exec (.portLinkFault p) s =
      .next (raiseOnFirstRecord s (if portInService p s = true then failPort p .linkFault none s else s)) := rfl
  rw [hexec, if_pos h]

end Sys2Proof.Machine
end

section
/-! PROOFS. The steps of a port exit, each on what the step before left (R138). -/

namespace Sys2Proof.Machine

/-! ## Steps 2 and 3 (R51, R52, R106; log 12) -/

theorem discardQueue_eq (p : Port) (c : DiscardCause) (s : State) :
    discardQueue p c s =
      let emptied : State :=
        (peek s.pwqs p).entries.foldl (fun t e => countDown e.generation t)
          { s with pwqs := poke s.pwqs p { peek s.pwqs p with entries := [] } }
      if (peek s.pwqs p).entries = [] then emptied
      else storeRecord (.postedDiscarded p (peek s.pwqs p).entries.length c) emptied := by
  simp only [discardQueue, List.isEmpty_iff]

/-- The buffers and the slots are still those of before the exit when its steps 2 and 3 come to them. -/
theorem exitMarked_eq (p : Port) (c : ExitCauses) (s : State) :
    exitMarked p c s =
      { discardQueue p c.discard s with
        buffers := (freeValidBuffers p s).buffers
        lru := (freeValidBuffers p s).lru
        slots := s.slots.map (markWaiting p) } := by
  obtain ⟨hbuffers, hlru⟩ := discardQueue_buffers p c.discard s
  simp only [exitMarked, freeValidBuffers, hbuffers, hlru, discardQueue_slots]

theorem exitMarked_waiting (p : Port) (c : ExitCauses) (s : State) : (exitMarked p c s).waiting = s.waiting :=
  (discardQueue_frame p c.discard s).waiting

theorem exitMarked_broken (p : Port) (c : ExitCauses) (s : State) : (exitMarked p c s).broken = s.broken :=
  (discardQueue_frame p c.discard s).broken

/-! ## Step 4 (R120, R121) -/

/-- A port's lock broken if it is Claimed or Held, and then its waiting order emptied. -/
def lockBroken (p : Port) (c : BreakCause) (s : State) : State :=
  match peek s.locks p with
  | .opened => s
  | .claimed owner _ _ =>
    storeRecord (.exclusiveBroken p owner .claimed c)
      { s with locks := poke s.locks p .opened, waiting := poke s.waiting p [] }
  | .held owner _ _ =>
    storeRecord (.exclusiveBroken p owner .held c)
      { s with
        locks := poke s.locks p .opened, waiting := poke s.waiting p []
        broken := s.broken ||| BitVec.twoPow 8 owner.val }

/-- A record and a waiting order are written in either order. -/
theorem storeRecord_setWaiting (x : RecordBody) (w : Vector (List SlotId) 4) (s : State) :
    { storeRecord x s with waiting := w } = storeRecord x { s with waiting := w } := by
  unfold storeRecord
  split <;> rfl

theorem breakAtExit_eq (p : Port) (c : BreakCause) (s : State) :
    breakAtExit p c s = (releasedByBreak p s).foldl (fun s i => meetFenceAtExit i s) (lockBroken p c s) := by
  unfold breakAtExit breakLock lockBroken
  cases h : peek s.locks p with
  | opened => simp [lockOwner, releasedByBreak_eq, h]
  | claimed owner claim i =>
    simp only [lockOwner, Option.isSome_some, if_true, storeRecord_setWaiting, storeRecord_waiting]
    rfl
  | held owner claim expiry =>
    simp only [lockOwner, Option.isSome_some, if_true, storeRecord_setWaiting, storeRecord_waiting]
    rfl

/-- R58 case 3, as the two tests a fence makes. -/
theorem mustWaitAtFence_eq (u : SlotUse) (t : State) :
    mustWaitAtFence u t =
      ((decide (u.cls = .strict ∨ u.kind = .exclusiveRead ∨ u.kind = .exclusiveWrite)) &&
        (t.postedIntake.any (fun e => decide (0 < (u.arrival - e.arrival).toInt)) ||
          (List.finRange 4).any (fun q => (peek t.pwqs q).entries.any (fun e =>
            decide (e.domain = u.domain ∧ 0 < (u.arrival - e.arrival).toInt))))) := by
  rw [Bool.eq_iff_iff, mustWaitAtFence_iff]
  simp only [Bool.and_eq_true, Bool.or_eq_true, decide_eq_true_iff, List.any_eq_true, List.mem_finRange, true_and]

/-! ## Step 5 (R74) -/

theorem endsAtExit_eq (p : Port) (s : State) :
    endsAtExit p s = fun i =>
      match slotUse s i with
      | some u => decide (u.port = p ∧ u.state ∈ [SlotState.ready, .sent, .assembling])
      | none => false := by
  funext i
  unfold endsAtExit
  cases slotUse s i with
  | none => rfl
  | some u => simp [Bool.or_assoc]

theorem orphanOf_eq (p : Port) (s : State) :
    orphanOf p s = fun i =>
      match slotUse s i with
      | some u => decide (u.port = p ∧ u.state ∈ [SlotState.orphaned])
      | none => false := by
  funext i
  unfold orphanOf
  cases slotUse s i with
  | none => rfl
  | some u => simp

/-! ## The obligation -/

/-- Settles O29: a failure is an exit of a port that is out of service already, so nothing that the exit does brings work back to it;
and the exit is its stages, each rewritten as the statement spells it. -/
theorem portFailureEndsThePortsWork : Obligations.PortFailureEndsThePortsWork := by
  unfold Obligations.PortFailureEndsThePortsWork
  refine ⟨?_, fun p cause slot s => failPort_eq p cause slot s, fun p c s => ?_⟩
  · intro p s failedWith
    have hfailed : ∀ cause, failedWith cause (raiseOnFirstRecord s (failPort p cause none s)) := by
      intro cause
      have hraise := raiseOnFirstRecord_frame s (failPort p cause none s)
      have hfail := failPort_frame p cause none s
      refine ⟨?_, fun q hq => ?_, fun hroom => ?_, ?_, ?_, fun q hq hclaim => ?_, fun b k block hvalid => ?_,
        fun i u hu hp => ?_, hraise.arrivalCounter.trans hfail.arrivalCounter,
        hraise.nonPostedIntake.trans hfail.nonPostedIntake, hraise.managementIntake.trans hfail.managementIntake,
        hraise.current.trans hfail.current, hraise.generation.trans hfail.generation,
        hraise.activeBank.trans hfail.activeBank, hraise.downstreamLinks.trans hfail.downstreamLinks,
        hraise.bridgeTime.trans hfail.bridgeTime⟩
      · rw [hraise.ports]
        exact failPort_port p cause none s
      · rw [hraise.ports]
        exact failPort_otherPort p cause none s hq
      · rw [hraise.records]
        exact failPort_firstRecord p cause none hroom
      · rw [hraise.pwqs]
        exact failPort_queue p cause none s
      · rw [hraise.locks]
        exact failPort_lock p cause none s
      · rw [hraise.locks]
        exact failPort_otherLock p cause none hq hclaim
      · rw [hraise.buffers] at hvalid
        exact failPort_buffers p cause none s hvalid
      · rw [slotUse, hraise.slots] at hu
        exact failPort_slots p cause none s hu hp
    exact ⟨fun hactive => ⟨_, exec_malformedMessage hactive, hfailed .malformedMessage⟩,
      fun hservice => ⟨_, exec_portLinkFault ((portInService_iff p s).2 hservice.symm), hfailed .linkFault⟩⟩
  · intro queue emptied discarded freed order broken fenceHolds fenced livesIn answered ended
    have hfreed : exitMarked p c s = freed := by
      rw [exitMarked_eq, freeValidBuffers_eq, funext (markWaiting_eq p), discardQueue_eq] <;> rfl
    have hlocks : freed.locks = s.locks := hfreed ▸ exitMarked_locks p c s
    have hwaiting : freed.waiting = s.waiting := hfreed ▸ exitMarked_waiting p c s
    have hset : freed.broken = s.broken := hfreed ▸ exitMarked_broken p c s
    have horder : releasedByBreak p freed = order := by
      rw [releasedByBreak_eq, hlocks, hwaiting]
    have hbroken : lockBroken p c.lock freed = broken := by
      simp only [lockBroken, broken, hlocks, hwaiting, hset] <;> rfl
    have hfenced : exitBroken p c s = fenced := by
      rw [exitBroken, hfreed, breakAtExit_eq, horder, hbroken]
      refine congrArg (fun f => order.foldl f broken) (funext fun t => funext fun i => ?_)
      simp only [meetFenceAtExit_eq, mustWaitAtFence_eq] <;> rfl
    have hanswered : exitAnswered p c s = ended := by
      simp only [exitAnswered, hfenced, answerSlotsAtExit, endsAtExit_eq, orphanOf_eq] <;> rfl
    rw [portExit_eq, hfreed, horder, hfenced, hanswered]

end Sys2Proof.Machine
end

section
/-! PROOFS. The ready point: the buffer that a read finds or obtains, and the cases of R60 (R61, R62, R93 to R95, R97 to R99). -/

namespace Sys2Proof.Machine

/-! ## The buffer found, and the buffer obtained (R93, R95) -/

/-- The first answer along a numbered list. -/
theorem findSome?_finRange_eq_some {β : Type} {n : Nat} {f : Fin n → Option β} {y : β} :
    (List.finRange n).findSome? f = some y ↔ ∃ i, f i = some y ∧ ∀ j, j < i → f j = none := by
  rw [List.findSome?_eq_some_iff]
  have hsorted : (List.finRange n).Pairwise (· < ·) := List.pairwise_lt_finRange n
  constructor
  · rintro ⟨before, i, later, hsplit, hi, hbefore⟩
    rw [hsplit, List.pairwise_append, List.pairwise_cons] at hsorted
    obtain ⟨-, ⟨hlater, -⟩, -⟩ := hsorted
    refine ⟨i, hi, fun j hj => ?_⟩
    have hmem : j ∈ before ++ i :: later := hsplit ▸ List.mem_finRange j
    obtain h | h := List.mem_append.1 hmem
    · exact hbefore j h
    · obtain rfl | h := List.mem_cons.1 h
      · exact absurd hj (lt_irrefl j)
      · exact absurd hj (lt_asymm (hlater j h))
  · rintro ⟨i, hi, hfirst⟩
    obtain ⟨before, later, hsplit⟩ := List.append_of_mem (List.mem_finRange i)
    rw [hsplit, List.pairwise_append] at hsorted
    obtain ⟨-, -, hacross⟩ := hsorted
    exact ⟨before, i, later, hsplit, hi, fun j hj => hfirst j (hacross j hj i List.mem_cons_self)⟩

theorem validBlock_eq_none {key : BufferKey} {x : Buffer} : validBlock key x = none ↔ ¬ ∃ block, x = .valid key block := by
  simp [Option.eq_none_iff_forall_ne_some, validBlock_eq_some]

theorem findValid_eq_some_iff {key : BufferKey} {s : State} {b : BufferId} {block : List Byte} :
    findValid key s = some (b, block) ↔
      peek s.buffers b = .valid key block ∧ ∀ c, c < b → ¬ ∃ block, peek s.buffers c = .valid key block := by
  have hfound : ∀ c, (validBlock key (peek s.buffers c)).map (fun x => (c, x)) = some (b, block) ↔
      c = b ∧ peek s.buffers b = .valid key block := by
    intro c
    rw [Option.map_eq_some_iff]
    simp only [validBlock_eq_some, Prod.mk.injEq]
    constructor
    · rintro ⟨x, hx, rfl, rfl⟩
      exact ⟨rfl, hx⟩
    · rintro ⟨rfl, hx⟩
      exact ⟨block, hx, rfl, rfl⟩
  rw [findValid, allBuffers, findSome?_finRange_eq_some]
  simp only [hfound, Option.map_eq_none_iff, validBlock_eq_none]
  constructor
  · rintro ⟨i, ⟨rfl, hvalid⟩, hfirst⟩
    exact ⟨hvalid, hfirst⟩
  · rintro ⟨hvalid, hfirst⟩
    exact ⟨b, ⟨rfl, hvalid⟩, hfirst⟩

theorem findValid_eq_none_iff {key : BufferKey} {s : State} :
    findValid key s = none ↔ ∀ b, ¬ ∃ block, peek s.buffers b = .valid key block := by
  simp only [findValid, allBuffers, List.findSome?_eq_none_iff, List.mem_finRange, true_imp_iff, Option.map_eq_none_iff,
    validBlock_eq_none]

theorem findFilling_eq_some_iff {key : BufferKey} {s : State} {b : BufferId} :
    findFilling key s = some b ↔
      (∃ l fs, peek s.buffers b = .filling key l fs) ∧ ∀ c, c < b → ¬ ∃ l fs, peek s.buffers c = .filling key l fs := by
  rw [findFilling, allBuffers, find?_finRange_eq_some]
  simp only [← Bool.not_eq_true, isFilling_iff]

theorem findFilling_eq_none_iff {key : BufferKey} {s : State} :
    findFilling key s = none ↔ ∀ b, ¬ ∃ l fs, peek s.buffers b = .filling key l fs := by
  simp only [findFilling, allBuffers, List.find?_eq_none, List.mem_finRange, true_imp_iff, isFilling_iff]

/-- R95: a FREE buffer is obtained before any other, the lowest-numbered one first. -/
theorem obtainable_free {s : State} {b : BufferId} (hb : peek s.buffers b = .free)
    (hfirst : ∀ c, c < b → peek s.buffers c ≠ .free) : obtainable s = some b := by
  have hfind : allBuffers.find? (fun b => decide (peek s.buffers b = .free)) = some b :=
    find?_finRange_eq_some.2 ⟨decide_eq_true hb, fun c hc => decide_eq_false (hfirst c hc)⟩
  rw [obtainable, hfind]

/-- R95: with no buffer FREE, the oldest of the LRU list is obtained. -/
theorem obtainable_oldest {s : State} (h : ∀ b, peek s.buffers b ≠ .free) : obtainable s = s.lru.head? := by
  have hfind : allBuffers.find? (fun b => decide (peek s.buffers b = .free)) = none := by
    simpa [allBuffers] using h
  rw [obtainable, hfind]

/-! ## The dispatch list (R62) -/

theorem enterReady_eq {i : SlotId} {u : SlotUse} {s : State} (hu : slotUse s i = some u) :
    enterReady i s =
      { s with
        slots := poke s.slots i { epoch := (peek s.slots i).epoch, use := some { u with state := .ready } }
        dispatch := poke s.dispatch u.port (insertByArrival (arrivalOf s) i (peek s.dispatch u.port)) } := by
  simp only [enterReady, hu, arrivalOf_putUse (v := { u with state := .ready }) hu rfl]
  rfl

/-! ## A prefetchable read (cases 2 to 5 of R60) -/

section Buffers

variable {i : SlotId} {u : SlotUse} {s : State} {b : BufferId}

theorem readFromBuffers_hit {block : List Byte} (h : findValid (keyOf u.port u.address) s = some (b, block)) :
    readFromBuffers i u s = answerSlot i .done (sliceOf block u.address u.length) (touchBuffer b s) := by
  simp only [readFromBuffers, h]

theorem readFromBuffers_follows (hvalid : findValid (keyOf u.port u.address) s = none)
    (h : findFilling (keyOf u.port u.address) s = some b) : readFromBuffers i u s = followFill b i u s := by
  simp only [readFromBuffers, hvalid, h]

theorem readFromBuffers_alone (hvalid : findValid (keyOf u.port u.address) s = none)
    (hfilling : findFilling (keyOf u.port u.address) s = none)
    (h : blockQueued (keyOf u.port u.address) s = true ∨ obtainable s = none) :
    readFromBuffers i u s = enterReady i s := by
  simp only [readFromBuffers, hvalid, hfilling]
  split
  · rfl
  · next hfree => rw [h.resolve_left hfree]

theorem readFromBuffers_leads (hvalid : findValid (keyOf u.port u.address) s = none)
    (hfilling : findFilling (keyOf u.port u.address) s = none) (hqueue : blockQueued (keyOf u.port u.address) s = false)
    (h : obtainable s = some b) : readFromBuffers i u s = leadFill b i u s := by
  simp only [readFromBuffers, hvalid, hfilling, hqueue, h, Bool.false_eq_true, if_false]

/-- R99: a follower waits for the fill, last in the attach order of its buffer. -/
theorem followFill_eq {key : BufferKey} {l : SlotId} {fs : List SlotId} (h : peek s.buffers b = .filling key l fs) :
    followFill b i u s =
      { s with
        slots := poke s.slots i
          { epoch := (peek s.slots i).epoch, use := some { u with state := .fillWait, fillLink := some (.follower b) } }
        buffers := poke s.buffers b (.filling key l (fs ++ [i])) } := by
  simp only [followFill, putUse_buffers, h]
  rfl

end Buffers

/-! ## The cases of R60 -/

theorem leadsFill_iff (u : SlotUse) : leadsFill u = true ↔ ∃ b, u.fillLink = some (.leader b) := by
  unfold leadsFill
  split <;> simp [*]

section Cases

variable {i : SlotId} {u : SlotUse} {s : State} (hu : slotUse s i = some u)

include hu

theorem readyPoint_lost (h : lostAtReadyPoint u s = true) : readyPoint i s = failSlot i .portLost s := by
  simp only [readyPoint, hu, h, if_true]

/-- R61: a leader, and a slot that no buffer can serve, go to the dispatch list. -/
theorem readyPoint_direct (hin : ¬ lostAtReadyPoint u s = true)
    (h : leadsFill u = true ∨ ¬ (u.kind = .read ∧ u.prefetchable = true)) : readyPoint i s = enterReady i s := by
  simp only [readyPoint, hu, if_neg hin]
  split
  · rfl
  · next hleads => rw [if_neg (h.resolve_left hleads)]

theorem readyPoint_buffered (hin : ¬ lostAtReadyPoint u s = true) (hleads : ¬ leadsFill u = true)
    (h : u.kind = .read ∧ u.prefetchable = true) : readyPoint i s = readFromBuffers i u s := by
  simp only [readyPoint, hu, if_neg hin, if_neg hleads, if_pos h]

end Cases

/-- Settles O21: the buffer functions look from the lowest number up, and the cases of R60 are taken in their order. -/
theorem readyPointFollowsTheCases : Obligations.ReadyPointFollowsTheCases := by
  unfold Obligations.ReadyPointFollowsTheCases
  refine ⟨fun key s => ⟨fun b block => findValid_eq_some_iff, findValid_eq_none_iff, fun b => findFilling_eq_some_iff,
    findFilling_eq_none_iff, fun b => obtainable_free, obtainable_oldest, blockQueued_iff key s⟩, fun i u s hu => ?_⟩
  intro key buffered leads
  have hleads : leadsFill u = true ↔ leads := leadsFill_iff u
  refine ⟨fun h => readyPoint_lost hu ((lostAtReadyPoint_iff u s).2 h), fun hservice hexited => ?_, enterReady_eq hu⟩
  have hin : ¬ lostAtReadyPoint u s = true := by
    rw [lostAtReadyPoint_iff, hservice, hexited]
    decide
  refine ⟨fun h => readyPoint_direct hu hin (h.imp_left hleads.2), fun hnot hbuffered => ?_⟩
  rw [readyPoint_buffered hu hin (mt hleads.1 hnot) hbuffered]
  refine ⟨fun b block hvalid => readFromBuffers_hit hvalid, fun hvalid => ⟨fun b l fs hfilling hb => ?_, fun hfilling => ?_⟩⟩
  · rw [readFromBuffers_follows hvalid hfilling, followFill_eq hb]
  · exact ⟨readFromBuffers_alone hvalid hfilling, fun b hqueue hb => readFromBuffers_leads hvalid hfilling hqueue hb⟩

end Sys2Proof.Machine
end

section
/-! PROOFS. Completion pieces: what they match, and what each does to its slot, to the fill it leads and to the lock that names it
(R55, R65 to R69, R73, R100 to R102, R106, R113, R179). -/

namespace Sys2Proof.Machine

/-! ## Tags (R55, 12.2) -/

theorem tagSlot_val (tag : BitVec 8) : (tagSlot tag).val = tag.toNat / 4 := by
  have hslot : (tagSlot tag).val = (tag.extractLsb' 2 6).toNat := rfl
  rw [hslot, BitVec.extractLsb'_toNat, Nat.shiftRight_eq_div_pow]
  have := tag.isLt
  omega

theorem tagEpoch_toNat (tag : BitVec 8) : (tagEpoch tag).toNat = tag.toNat % 4 := by
  rw [tagEpoch, BitVec.extractLsb'_toNat, Nat.shiftRight_zero]

/-! ## The slot that a piece matches (R65, R179) -/

theorem takesPieces_iff (st : SlotState) : takesPieces st = true ↔ st = .sent ∨ st = .assembling ∨ st = .orphaned := by
  simp [takesPieces, or_assoc]

/-- R66 to R68: a slot whose request was sent and that is not given up takes pieces. -/
theorem takesPieces_live {st : SlotState} (h : st = .sent ∨ st = .assembling) : takesPieces st = true ∧ st ≠ .orphaned := by
  obtain rfl | rfl := h <;> decide

section Matching

variable {p : Port} {tag : BitVec 8} {u : SlotUse} {s : State}

theorem staleReason_free (h : slotUse s (tagSlot tag) = none) : staleReason p tag s = some .slotFree := by
  have hfree : (peek s.slots (tagSlot tag)).use = none := h
  simp only [staleReason, hfree]

theorem staleReason_takesNone (hu : slotUse s (tagSlot tag) = some u) (h : ¬ takesPieces u.state = true) :
    staleReason p tag s = some .takesNoPieces := by
  have hused : (peek s.slots (tagSlot tag)).use = some u := hu
  simp only [staleReason, hused, Bool.eq_false_of_not_eq_true h, Bool.not_false, if_true]

theorem staleReason_takes (hu : slotUse s (tagSlot tag) = some u) (h : takesPieces u.state = true) :
    staleReason p tag s =
      if (peek s.slots (tagSlot tag)).epoch ≠ tagEpoch tag then some .epochDiffers
      else if u.port ≠ p then some .otherPort else none := by
  have hused : (peek s.slots (tagSlot tag)).use = some u := hu
  simp only [staleReason, hused, h, Bool.not_true, Bool.false_eq_true, if_false]

variable {status : PieceStatus} {offset count : Nat} {data : List Byte}

/-- R186: a Good piece, and a Fault piece without data, is no malformed message. -/
theorem wellFramed (hframed : status = .good ∨ data = []) : ¬ (status = .fault ∧ data ≠ []) := by
  rintro ⟨rfl, hdata⟩
  exact hdata (hframed.resolve_left (by decide))

/-- R65: a well-framed piece that matches no slot makes its record. -/
theorem takePiece_stale {cause : StaleCause} (hframed : status = .good ∨ data = [])
    (h : staleReason p tag s = some cause) :
    takePiece p tag status offset count data s = storeRecord (.staleCompletion p (tagSlot tag) status cause) s := by
  simp only [takePiece, if_neg (wellFramed hframed), h]

/-- R65: a well-framed piece that its slot takes. -/
theorem takePiece_matches (hframed : status = .good ∨ data = []) (hu : slotUse s (tagSlot tag) = some u)
    (htakes : takesPieces u.state = true) (hepoch : (peek s.slots (tagSlot tag)).epoch = tagEpoch tag) (hport : u.port = p) :
    takePiece p tag status offset count data s = takeMatchingPiece p (tagSlot tag) u status offset count data s := by
  have hreason : staleReason p tag s = none := by
    rw [staleReason_takes hu htakes, if_neg (not_not.2 hepoch), if_neg (not_not.2 hport)]
  simp only [takePiece, if_neg (wellFramed hframed), hreason, hu]

end Matching

theorem exec_completionPiece {p : Port} {s : State} (h : (peek s.ports p).state = .active) (tag : BitVec 8)
    (status : PieceStatus) (offset : BitVec 8) (count : BitVec 9) (data : List Byte) :
    exec (.completionPiece p tag status offset count data) s =
      .next (raiseOnFirstRecord s (takePiece p tag status offset.toNat count.toNat data s)) := by
  have hexec : exec (.completionPiece p tag status offset count data) s =
      .next (raiseOnFirstRecord s (ifActive p (takePiece p tag status offset.toNat count.toNat data) s)) := rfl
  rw [hexec, ifActive_active h]

/-- Settles O32. -/
theorem stalePiecesMakeARecord : Obligations.StalePiecesMakeARecord := by
  unfold Obligations.StalePiecesMakeARecord
  refine ⟨fun tag => ⟨tagSlot_val tag, tagEpoch_toNat tag⟩, fun p tag status offset count data s hactive hframed => ?_⟩
  intro i stale
  have hstale : ∀ cause, staleReason p tag s = some cause → stale cause := by
    intro cause h
    change exec _ s = _
    rw [exec_completionPiece hactive, takePiece_stale hframed h]
  refine ⟨fun hfree => hstale _ (staleReason_free hfree), fun u hu => ?_⟩
  intro takes
  have htakes : takesPieces u.state = true ↔ takes := takesPieces_iff u.state
  refine ⟨fun h => hstale _ (staleReason_takesNone hu (mt htakes.1 h)), fun h hepoch => hstale _ ?_,
    fun h hepoch hport => hstale _ ?_⟩
  · rw [staleReason_takes hu (htakes.2 h), if_pos hepoch]
  · rw [staleReason_takes hu (htakes.2 h), if_neg (not_not.2 hepoch), if_pos hport]

/-! ## What the slot's state and kind make of a piece (R65) -/

section Taken

variable {p : Port} {i : SlotId} {u : SlotUse} {s : State} {offset count : Nat} {data : List Byte}

theorem takeMatchingPiece_late (status : PieceStatus) (h : u.state = .orphaned) :
    takeMatchingPiece p i u status offset count data s = takeLatePiece p i status s := if_pos h

theorem takeMatchingPiece_fault (h : u.state ≠ .orphaned) :
    takeMatchingPiece p i u .fault offset count data s = takeFaultPiece i u s := if_neg h

theorem takeMatchingPiece_read (h : u.state ≠ .orphaned) (hkind : u.kind = .read ∨ u.kind = .exclusiveRead) :
    takeMatchingPiece p i u .good offset count data s = takeReadPiece p i u offset count data s := by
  obtain hkind | hkind := hkind <;> simp only [takeMatchingPiece, if_neg h, hkind]

theorem takeMatchingPiece_write (h : u.state ≠ .orphaned) (hkind : u.kind = .nonPostedWrite ∨ u.kind = .exclusiveWrite) :
    takeMatchingPiece p i u .good offset count data s = takeWritePiece p i u count data s := by
  obtain hkind | hkind := hkind <;> simp only [takeMatchingPiece, if_neg h, hkind]

/-! ## Reads (R66, R69) -/

/-- A slot's record once the bytes of a piece have joined its data area (R66). -/
def grownUse (u : SlotUse) (offset : Nat) (data : List Byte) : SlotUse :=
  { u with state := .assembling, received := putBytes u.received offset data }

theorem takeReadPiece_bad (h : badReadPiece u offset count data = true) :
    takeReadPiece p i u offset count data s = failPort p .badPiece (some i) s := if_pos h

theorem takeReadPiece_grows (h : ¬ badReadPiece u offset count data = true) (hpart : none ∈ putBytes u.received offset data) :
    takeReadPiece p i u offset count data s = putUse i (some (grownUse u offset data)) s := by
  have hall : ¬ (putBytes u.received offset data).all (fun x => x.isSome) = true := by
    rw [allReceived_iff]
    exact not_not.2 hpart
  simp only [takeReadPiece, if_neg h, if_neg hall]
  rfl

theorem takeReadPiece_completes (h : ¬ badReadPiece u offset count data = true)
    (hwhole : none ∉ putBytes u.received offset data) :
    takeReadPiece p i u offset count data s =
      completeRead i (grownUse u offset data) (receivedBytes (putBytes u.received offset data))
        (putUse i (some (grownUse u offset data)) s) := by
  simp only [takeReadPiece, if_neg h, if_pos ((allReceived_iff _).2 hwhole)]
  rfl

theorem completeRead_leader {b : BufferId} {block : List Byte} (h : u.fillLink = some (.leader b)) :
    completeRead i u block s =
      freeSlot i (endFillDone b block (reply u .done (sliceOf block u.address u.length) s)) := by
  simp only [completeRead, h]

theorem completeRead_alone {block : List Byte} (h : u.fillLink = none) :
    completeRead i u block s = lockActs i u.port .done (answerSlot i .done block s) := by
  simp only [completeRead, h]

/-! ## Writes (R67) -/

theorem takeWritePiece_done (hcount : count = 0) (hdata : data = []) :
    takeWritePiece p i u count data s = lockActs i u.port .done (answerSlot i .done [] s) := if_pos ⟨hcount, hdata⟩

theorem takeWritePiece_bad (h : count ≠ 0 ∨ data ≠ []) :
    takeWritePiece p i u count data s = failPort p .badPiece (some i) s := if_neg (not_and_or.2 h)

end Taken

/-! ## The end of a fill (R100 to R102, R106; log 13) -/

section Fills

variable {b : BufferId} {k : BufferKey} {l : SlotId} {followers : List SlotId} {s : State}

theorem endFillDone_filling (block : List Byte) (h : peek s.buffers b = .filling k l followers) :
    endFillDone b block s =
      { answerFollowersDone block followers s with
        buffers := poke s.buffers b (.valid k block), lru := s.lru.filter (fun c => c ≠ b) ++ [b] } := by
  have hanswers := answerFollowersDone_frame block followers s
  simp only [endFillDone, h, putBuffer, hanswers.buffers, hanswers.lru]
  rfl

theorem endFillDone_stale (block : List Byte) (h : peek s.buffers b = .stale k l followers) :
    endFillDone b block s = { answerFollowersDone block followers s with buffers := poke s.buffers b .free } := by
  simp only [endFillDone, h, putBuffer, (answerFollowersDone_frame block followers s).buffers]

theorem endFillFailed_fetching (st : Status)
    (h : peek s.buffers b = .filling k l followers ∨ peek s.buffers b = .stale k l followers) :
    endFillFailed b st s = answerFollowersFailed st followers (putBuffer b .free s) := by
  obtain h | h := h <;> simp only [endFillFailed, h]

end Fills

theorem endLedFill_leader {u : SlotUse} {b : BufferId} (st : Status) (s : State) (h : u.fillLink = some (.leader b)) :
    endLedFill u st s = endFillFailed b st s := by
  simp only [endLedFill, h]

theorem endLedFill_none {u : SlotUse} (st : Status) (s : State) (h : ∀ b, u.fillLink ≠ some (.leader b)) :
    endLedFill u st s = s := by
  unfold endLedFill
  split
  · next b hlink => exact absurd hlink (h b)
  · rfl
  · rfl

theorem failSlot_used {i : SlotId} {u : SlotUse} {s : State} (st : Status) (hu : slotUse s i = some u) :
    failSlot i st s = endLedFill u st (answerSlot i st (failData u.kind u.length) s) := by
  simp only [failSlot, hu]

/-- Settles O30: the branches of `takeReadPiece`, and the end of a good fill in each state of its buffer. -/
theorem goodPiecesAssembleARead : Obligations.GoodPiecesAssembleARead := by
  unfold Obligations.GoodPiecesAssembleARead
  refine ⟨fun p tag offset count data u s hactive => ?_, fun b k l followers block s => ?_⟩
  · rintro i hu hstate hepoch rfl hkind overlaps bad area bytes grown
    have hbad : badReadPiece u offset.toNat count.toNat data = true ↔ bad := badReadPiece_iff u _ _ data
    obtain ⟨htakes, hlive⟩ := takesPieces_live hstate
    have hexec : exec (.completionPiece u.port tag .good offset count data) s =
        .next (raiseOnFirstRecord s (takeReadPiece u.port i u offset.toNat count.toNat data s)) := by
      rw [exec_completionPiece hactive, takePiece_matches (.inl rfl) hu htakes hepoch rfl,
        takeMatchingPiece_read hlive hkind]
    have hquiet : ∀ {t}, takeReadPiece u.port i u offset.toNat count.toNat data s = t → LockFrame s t →
        exec (.completionPiece u.port tag .good offset count data) s = .next t := by
      intro t ht hframe
      rw [hexec, ht, raiseOnFirstRecord_same hframe.records]
    have hgrown : LockFrame s grown := (putUse_frame i (some (grownUse u offset.toNat data)) s).toTracker.toLock
    refine ⟨fun h => ?_, fun h hpart => ?_, fun h hwhole => ⟨fun b hleader => ?_, fun halone => ?_⟩⟩
    · rw [hexec, takeReadPiece_bad (hbad.2 h)]
    · exact hquiet (takeReadPiece_grows (mt hbad.1 h) hpart) hgrown
    · exact hquiet ((takeReadPiece_completes (mt hbad.1 h) hwhole).trans (completeRead_leader hleader))
        (hgrown.trans ((reply_frame u _ _ _).toTracker.trans
          ((endFillDone_frame b _ _).trans (freeSlot_frame i _).toTracker)).toLock)
    · exact hquiet ((takeReadPiece_completes (mt hbad.1 h) hwhole).trans (completeRead_alone halone))
        (hgrown.trans ((answerSlot_frame i _ _ _).toTracker.toLock.trans (lockActs_frame i _ .done _)))
  · intro answered
    exact ⟨endFillDone_filling block, endFillDone_stale block⟩

/-! ## The lock that names the answered slot (R113) -/

section Claims

variable {i : SlotId} {p : Port} {owner : Agent} {arrival : Arrival} {s : State} (h : peek s.locks p = .claimed owner arrival i)

include h

theorem lockActs_holds :
    lockActs i p .done s = putLock p (.held owner arrival (after s.bridgeTime s.holdLimit)) s := by
  simp only [lockActs, h, if_true]

theorem lockActs_opens {st : Status} (hst : st ≠ .done) : lockActs i p st s = openLock p s := by
  simp only [lockActs, h, if_true]

end Claims

/-- Settles O31: a piece by the slot's state and kind, a failed fill by its buffer, and a lock by the slot it names. -/
theorem writeFaultAndLatePieces : Obligations.WriteFaultAndLatePieces := by
  unfold Obligations.WriteFaultAndLatePieces
  refine ⟨fun p tag offset count data u s hactive => ?_, fun st i u s => ?_, fun i p st s => ⟨fun owner arrival h => ⟨?_, ?_⟩, ?_⟩⟩
  · intro i hu hepoch hport
    have hmatch : ∀ status data, status = .good ∨ data = [] → takesPieces u.state = true →
        exec (.completionPiece p tag status offset count data) s =
          .next (raiseOnFirstRecord s (takeMatchingPiece p i u status offset.toNat count.toNat data s)) := by
      intro status data hframed htakes
      rw [exec_completionPiece hactive, takePiece_matches hframed hu htakes hepoch hport]
    refine ⟨fun hsent hkind => ?_, fun hstate => ?_, fun horphan => ?_⟩
    · obtain ⟨htakes, hlive⟩ := takesPieces_live (.inl hsent)
      refine ⟨fun hcount hdata => ?_, fun hbad => ?_⟩
      · rw [hmatch .good data (.inl rfl) htakes, takeMatchingPiece_write hlive hkind, takeWritePiece_done hcount hdata, hport,
          raiseOnFirstRecord_same ((answerSlot_frame i _ _ s).toTracker.toLock.trans (lockActs_frame i p _ _)).records]
      · rw [hmatch .good data (.inl rfl) htakes, takeMatchingPiece_write hlive hkind, takeWritePiece_bad hbad]
    · obtain ⟨htakes, hlive⟩ := takesPieces_live hstate
      rw [hmatch .fault [] (.inr rfl) htakes, takeMatchingPiece_fault hlive, takeFaultPiece, hport,
        raiseOnFirstRecord_same ((failSlot_frame i _ s).toLock.trans (lockActs_frame i p _ _)).records]
    · have htakes : takesPieces u.state = true := (takesPieces_iff _).2 (.inr (.inr horphan))
      rw [hmatch .fault [] (.inr rfl) htakes, hmatch .good data (.inl rfl) htakes, takeMatchingPiece_late _ horphan,
        takeMatchingPiece_late _ horphan]
      exact ⟨rfl, rfl⟩
  · intro filled
    have hfilled : ∀ w : SlotUse, failData w.kind w.length = filled w := fun w => failData_eq w.kind w.length
    refine ⟨fun hu => by rw [failSlot_used st hu, hfilled], endLedFill_none st s, fun b k l followers hleader hbuffer => ?_⟩
    rw [endLedFill_leader st s hleader, endFillFailed_fetching st hbuffer]
    simp only [answerFollowersFailed, hfilled] <;> rfl
  · rintro rfl
    exact lockActs_holds h
  · exact lockActs_opens h
  · exact lockActs_unclaimed

end Sys2Proof.Machine
end

section
/-! PROOFS. The expiry of the completion, orphan and hold timers (R71 to R73, R88, R102, R103, R113, R118 to R120, R182). -/

namespace Sys2Proof.Machine

theorem due_iff (now expiry : Time) : due now expiry = true ↔ 0 ≤ (now - expiry).toInt := decide_eq_true_iff

/-! ## Leaving a list (R62, R71, R82, R110) -/

section Lists

variable {i : SlotId} {u : SlotUse} {s : State}

theorem leaveLists_lockWait (h : u.state = .lockWait) :
    leaveLists i u s = { s with waiting := poke s.waiting u.port (without i (peek s.waiting u.port)) } := by
  simp only [leaveLists, h]

theorem leaveLists_fenceWait (h : u.state = .fenceWait) :
    leaveLists i u s = { s with fenceOrder := without i s.fenceOrder } := by
  simp only [leaveLists, h]

theorem leaveLists_ready (h : u.state = .ready) :
    leaveLists i u s = { s with dispatch := poke s.dispatch u.port (without i (peek s.dispatch u.port)) } := by
  simp only [leaveLists, h]

variable {b : BufferId} {k : BufferKey} {l : SlotId} {fs : List SlotId}

/-- A follower leaves the attach order of the fill it follows. -/
theorem leaveLists_filling (h : u.state = .fillWait) (hlink : u.fillLink = some (.follower b))
    (hb : peek s.buffers b = .filling k l fs) : leaveLists i u s = putBuffer b (.filling k l (without i fs)) s := by
  simp only [leaveLists, h, hlink, hb, putBuffer]

theorem leaveLists_stale (h : u.state = .fillWait) (hlink : u.fillLink = some (.follower b))
    (hb : peek s.buffers b = .stale k l fs) : leaveLists i u s = putBuffer b (.stale k l (without i fs)) s := by
  simp only [leaveLists, h, hlink, hb, putBuffer]

/-- A slot in no list leaves none. -/
theorem leaveLists_unlisted (h : u.state = .sent ∨ u.state = .assembling ∨ u.state = .orphaned) :
    leaveLists i u s = s := by
  obtain h | h | h := h <;> simp only [leaveLists, h]

end Lists

/-! ## The completion timer (R71, R72) -/

section Completion

variable {i : SlotId} {u : SlotUse} {s : State}

theorem exec_completionTimerExpiry_unused (h : slotUse s i = none) : exec (.completionTimerExpiry i) s = .next s := by
  have hexec : exec (.completionTimerExpiry i) s = execCompletionTimerExpiry i s := rfl
  simp only [hexec, execCompletionTimerExpiry, h]

theorem exec_completionTimerExpiry_used (hu : slotUse s i = some u) :
    exec (.completionTimerExpiry i) s =
      if u.state ≠ .orphaned ∧ due s.bridgeTime u.expiry = true then .next (raiseOnFirstRecord s (expireSlot i u s))
      else .next s := by
  have hexec : exec (.completionTimerExpiry i) s = execCompletionTimerExpiry i s := rfl
  simp only [hexec, execCompletionTimerExpiry, hu, event]

/-- R72: the slot of a request sent downstream is answered and becomes ORPHANED. -/
theorem expireSlot_orphans (s : State) (h : u.state = .sent ∨ u.state = .assembling) :
    expireSlot i u s =
      lockActs i u.port .expired (orphanSlot i u (storeRecord (.completionExpired u.agent u.tag u.port i u.state) s)) := by
  have hstatus : expiryStatus u = .expired := expiryStatus_other (by obtain h | h := h <;> rw [h] <;> decide)
  simp only [expireSlot, if_pos h, hstatus]

/-- R71: the slot of a request that waits leaves its list and is answered. -/
theorem expireSlot_waits (s : State) (hsent : u.state ≠ .sent) (hassembling : u.state ≠ .assembling) :
    expireSlot i u s =
      lockActs i u.port (expiryStatus u)
        (failSlot i (expiryStatus u)
          (leaveLists i u (storeRecord (.completionExpired u.agent u.tag u.port i u.state) s))) := by
  simp only [expireSlot, if_neg (not_or.2 ⟨hsent, hassembling⟩), expireWaiting]

/-- R72: the answer Expired, the ORPHANED slot with its timer, and the end of the fill it led. -/
theorem orphanSlot_eq (t : State) :
    orphanSlot i u t =
      endLedFill u .expired
        { reply u .expired (failData u.kind u.length) t with
          slots := poke t.slots i
            { epoch := (peek t.slots i).epoch
              use := some
                { u with
                  state := .orphaned, received := [], writeData := [], fillLink := none,
                  expiry := t.bridgeTime + u.timeoutAtAllocation.setWidth 32 * 128 } } } := by
  have hslots : (reply u .expired (failData u.kind u.length) t).slots = t.slots := by rw [reply_eq]
  simp only [orphanSlot, putUse, hslots]
  rfl

end Completion

/-- Settles O34. -/
theorem completionTimerAnswersExpired : Obligations.CompletionTimerAnswersExpired := by
  unfold Obligations.CompletionTimerAnswersExpired
  refine fun i s => ⟨exec_completionTimerExpiry_unused, fun u hu => ⟨fun h => ?_, fun hlive hdue => ?_⟩, fun u => ?_⟩
  · rw [exec_completionTimerExpiry_used hu, if_neg]
    rintro ⟨hlive, hdue⟩
    exact absurd ((due_iff _ _).1 hdue) (not_le.2 (h.resolve_left hlive))
  · intro recorded filled
    have hexec : exec (.completionTimerExpiry i) s = .next (raiseOnFirstRecord s (expireSlot i u s)) := by
      rw [exec_completionTimerExpiry_used hu, if_pos ⟨hlive, (due_iff _ _).2 hdue⟩]
    refine ⟨fun hstate => ?_, fun hsent hassembling => ?_⟩
    · rw [hexec, expireSlot_orphans s hstate, orphanSlot_eq, failData_eq, storeRecord_slots, storeRecord_bridgeTime]
    · intro status
      have hstatus : expiryStatus u = status := if_congr and_comm rfl rfl
      rw [hexec, expireSlot_waits s hsent hassembling, hstatus]
  · intro others
    exact ⟨leaveLists_lockWait, leaveLists_fenceWait, leaveLists_ready,
      fun b k l followers hstate hlink => ⟨leaveLists_filling hstate hlink, leaveLists_stale hstate hlink⟩,
      leaveLists_unlisted⟩

/-! ## The orphan timer (R73) -/

theorem exec_orphanTimerExpiry_unused {i : SlotId} {s : State} (h : slotUse s i = none) :
    exec (.orphanTimerExpiry i) s = .next s := by
  have hexec : exec (.orphanTimerExpiry i) s = execOrphanTimerExpiry i s := rfl
  simp only [hexec, execOrphanTimerExpiry, h]

theorem exec_orphanTimerExpiry_used {i : SlotId} {u : SlotUse} {s : State} (hu : slotUse s i = some u) :
    exec (.orphanTimerExpiry i) s =
      if u.state = .orphaned ∧ due s.bridgeTime u.expiry = true then .next (raiseOnFirstRecord s (expireOrphan i u s))
      else .next s := by
  have hexec : exec (.orphanTimerExpiry i) s = execOrphanTimerExpiry i s := rfl
  simp only [hexec, execOrphanTimerExpiry, hu, event]

/-! ## The hold timer (R119, R120) -/

section Hold

variable {p : Port} {s : State}

theorem exec_holdTimerExpiry_held {owner : Agent} {arrival : Arrival} {expiry : Time}
    (h : peek s.locks p = .held owner arrival expiry) :
    exec (.holdTimerExpiry p) s =
      if due s.bridgeTime expiry = true then .next (raiseOnFirstRecord s (expireHold p s)) else .next s := by
  have hexec : exec (.holdTimerExpiry p) s = execHoldTimerExpiry p s := rfl
  simp only [hexec, execHoldTimerExpiry, h, event]

theorem exec_holdTimerExpiry_notHeld (h : ∀ owner arrival expiry, peek s.locks p ≠ .held owner arrival expiry) :
    exec (.holdTimerExpiry p) s = .next s := by
  have hexec : exec (.holdTimerExpiry p) s = execHoldTimerExpiry p s := rfl
  rw [hexec, execHoldTimerExpiry]
  split
  · next owner arrival expiry hlock => exact absurd hlock (h owner arrival expiry)
  · rfl
  · rfl

/-- R120: the break of a Held lock, with its owner's broken flag and its record. -/
theorem breakLock_held {owner : Agent} {arrival : Arrival} {expiry : Time} (cause : BreakCause)
    (h : peek s.locks p = .held owner arrival expiry) :
    breakLock p cause s =
      storeRecord (.exclusiveBroken p owner .held cause)
        { s with locks := poke s.locks p .opened, broken := s.broken ||| BitVec.twoPow 8 owner.val } := by
  simp only [breakLock, h]
  rfl

end Hold

/-- Settles O35. -/
theorem orphanAndHoldTimersExpire : Obligations.OrphanAndHoldTimersExpire := by
  unfold Obligations.OrphanAndHoldTimersExpire
  refine ⟨fun i s => ⟨exec_orphanTimerExpiry_unused, fun u hu => ⟨fun h => ?_, fun horphan hdue => ?_⟩⟩,
    fun p s => ⟨fun h => ?_, fun owner arrival expiry hlock hdue => ?_⟩⟩
  · rw [exec_orphanTimerExpiry_used hu, if_neg]
    rintro ⟨horphan, hdue⟩
    exact absurd ((due_iff _ _).1 hdue) (not_le.2 (h.resolve_left (not_not.2 horphan)))
  · rw [exec_orphanTimerExpiry_used hu, if_pos ⟨horphan, (due_iff _ _).2 hdue⟩, expireOrphan]
  · by_cases hheld : ∃ owner arrival expiry, peek s.locks p = .held owner arrival expiry
    · obtain ⟨owner, arrival, expiry, hlock⟩ := hheld
      rw [exec_holdTimerExpiry_held hlock, if_neg]
      exact fun hdue => absurd ((due_iff _ _).1 hdue) (not_le.2 (h owner arrival expiry hlock))
    · exact exec_holdTimerExpiry_notHeld fun owner arrival expiry hlock => hheld ⟨owner, arrival, expiry, hlock⟩
  · rw [exec_holdTimerExpiry_held hlock, if_pos ((due_iff _ _).2 hdue), expireHold, breakLock_held .holdExpiry hlock]

end Sys2Proof.Machine
end

section
/-! PROOFS. PORT CONTROL (R126, R127, R137), and what the exit of a disable leaves of the port (R51, R74, R106, R121, R138). -/

namespace Sys2Proof.Machine

/-! ## The port disabled -/

/-- A port taken out of service by a disable; the exit follows (R137). -/
def portDisabled (p : Port) (s : State) : State := leaveService p .disabled s

theorem portDisabled_outOfService (p : Port) (s : State) : portInService p (portDisabled p s) = false := by
  refine portInService_eq_false (.inl ?_)
  rw [portDisabled, leaveService, putPort_ports, peek_poke_same]

/-! ## The three operations (R126) -/

section Rules

variable {p : Port} {s : State}

theorem disableRule_disabled (h : (peek s.ports p).state = .disabled) : disableRule p s = answerDone s := if_pos h

theorem disableRule_exits (h : (peek s.ports p).state ≠ .disabled) :
    disableRule p s = answerDone (portExit p ExitCauses.disable (portDisabled p s)) := if_neg h

end Rules

/-! ## The request -/

section Request

variable {r : ManagementEntry} {p : Port} {s : State}

theorem portControlIs_of {code : Word} (ho : r.operation = 5) (hw : r.words = [code]) : portControlIs code r = true := by
  simp [portControlIs, hasOperation, operationOfCode, ho, hw]

/-- R171: the operation that the one operand word names, on the port that the index names. -/
theorem portControlRule_single {w : Word} (hi : r.index = BitVec.ofNat 6 p.val) (hw : r.words = [w]) (t : State) :
    portControlRule r t =
      if w = 1 then enableRule p t else if w = 2 then disableRule p t else if w = 3 then restartRule p t
      else answerInvalid t := by
  have hport : portOfIndex r.index = some p := hi ▸ portOfIndex_ofNat p
  simp only [portControlRule, hport, valueWord_single hw]

theorem portControlRule_enable (hi : r.index = BitVec.ofNat 6 p.val) (hw : r.words = [1]) (t : State) :
    portControlRule r t = enableRule p t := by
  rw [portControlRule_single hi hw, if_pos rfl]

theorem portControlRule_disable (hi : r.index = BitVec.ofNat 6 p.val) (hw : r.words = [2]) (t : State) :
    portControlRule r t = disableRule p t := by
  rw [portControlRule_single hi hw, if_neg (by decide), if_pos rfl]

theorem portControlRule_restart (hi : r.index = BitVec.ofNat 6 p.val) (hw : r.words = [3]) (t : State) :
    portControlRule r t = restartRule p t := by
  rw [portControlRule_single hi hw, if_neg (by decide), if_neg (by decide), if_pos rfl]

variable (hc : s.current = some r) (ho : r.operation = 5) (hm : hasAgent s.managementMask r.agent = true)

include hc ho hm

/-- R163, R164: the end of a PORT CONTROL from an agent of the mask, as its operation answers it. -/
theorem portControl_answered {w : Word} (hw : r.words = [w]) {st : Status} {t : State}
    (ha : portControlRule r { s with current := none } = { after := t, status := st, words := [] }) :
    executionEnd (portControlIs w) portControlRule s =
      .next (appendCompletion { agent := r.agent, tag := r.tag, status := st, data := [], words := [] }
        (raiseOnFirstRecord s t)) := by
  rw [executionEnd_named hc (portControlIs_of ho hw),
    endRequest_passes (op := .portControl) (by simp [operationOfCode, ho]) (.inr hm) (by simp [hw, operandCount]), ha]

/-- R148: an operation that stores no record has no vector raised at its end. -/
theorem portControl_quiet {w : Word} (hw : r.words = [w]) {st : Status} {t : State}
    (ha : portControlRule r { s with current := none } = { after := t, status := st, words := [] })
    (hr : t.records = s.records) :
    executionEnd (portControlIs w) portControlRule s =
      .next (appendCompletion { agent := r.agent, tag := r.tag, status := st, data := [], words := [] } t) := by
  rw [portControl_answered hc ho hm hw ha, raiseOnFirstRecord_same hr]

end Request

/-- Settles O50: the exit of a disable works on a port that is out of service already, as the exit of a failure does. -/
theorem portControlMovesThePort : Obligations.PortControlMovesThePort := by
  unfold Obligations.PortControlMovesThePort
  intro r p s hc ho hi hm idle answered x waiting
  have hwaiting : enterWaiting p idle = waiting := rfl
  refine ⟨fun hw => ?_, fun hw => ?_, fun hw hdisabled => ?_, fun hw hdisabled => ?_⟩
  · have hrule : portControlRule r idle = if x.state = .disabled then answerDone waiting else answerInvalid idle := by
      rw [portControlRule_enable hi hw, enableRule, hwaiting]
    split
    · next h => exact portControl_quiet hc ho hm hw (by rw [hrule, if_pos h]; rfl) rfl
    · next h => exact portControl_quiet hc ho hm hw (by rw [hrule, if_neg h]; rfl) rfl
  · have hrule : portControlRule r idle = if x.state = .failed then answerDone waiting else answerInvalid idle := by
      rw [portControlRule_restart hi hw, restartRule, hwaiting]
    split
    · next h => exact portControl_quiet hc ho hm hw (by rw [hrule, if_pos h]; rfl) rfl
    · next h => exact portControl_quiet hc ho hm hw (by rw [hrule, if_neg h]; rfl) rfl
  · exact portControl_quiet hc ho hm hw ((portControlRule_disable hi hw idle).trans (disableRule_disabled hdisabled)) rfl
  · intro gone exited
    have hgone : portInService p gone = false := portDisabled_outOfService p idle
    refine ⟨?_, ?_, portExit_queue _ hgone, portExit_lock _ hgone,
      fun b k block => portExit_buffers _ hgone, fun i u => portExit_slots _ hgone⟩
    · exact portControl_answered hc ho hm hw ((portControlRule_disable hi hw idle).trans (disableRule_exits hdisabled))
    · rw [(portExit_frame p _ gone).ports]

end Sys2Proof.Machine
end

section
/-! PROOFS. The prefetch buffers, the LRU list and the slots that lead fills: what an operation that brings no live buffer and no
leader can do to them, and what a hit, an obtained buffer and the end of a fill do (R92 to R95, R98, R100 to R102, R104). -/

namespace Sys2Proof.Machine

/-! ## Leaders -/

/-- A slot whose fill link names the buffer whose fill it leads (R98). -/
def Leads (s : State) (i : SlotId) (b : BufferId) : Prop := ∃ u, slotUse s i = some u ∧ u.fillLink = some (.leader b)

theorem Leads.of_slots {s t : State} {i : SlotId} {b : BufferId} (h : Leads t i b) (hslots : t.slots = s.slots) :
    Leads s i b := by
  rwa [Leads, slotUse, hslots] at h

/-- A slot that leads once another's record is replaced is that slot with its new link, or led before. -/
theorem Leads.of_putUse {s : State} {i j : SlotId} {v : Option SlotUse} {c : BufferId} (h : Leads (putUse i v s) j c) :
    (j = i ∧ ∃ w, v = some w ∧ w.fillLink = some (.leader c)) ∨ (j ≠ i ∧ Leads s j c) := by
  obtain ⟨w, hw, hlink⟩ := h
  by_cases hij : i = j
  · subst hij
    rw [slotUse_putUse_same] at hw
    exact .inl ⟨rfl, w, hw, hlink⟩
  · rw [slotUse_putUse_ne _ _ hij] at hw
    exact .inr ⟨Ne.symm hij, w, hw, hlink⟩

theorem lruExact_iff (s : State) :
    LruExact s ↔ s.lru.Nodup ∧ (∀ b, b ∈ s.lru ↔ isValid (peek s.buffers b) = true) ∧
      ∀ i b, Leads s i b → leaderOf (peek s.buffers b) = some i :=
  ⟨fun ⟨hnodup, hmem, hleads⟩ => ⟨hnodup, hmem, fun i b ⟨u, hu, hlink⟩ => hleads i u b hu hlink⟩,
    fun ⟨hnodup, hmem, hleads⟩ => ⟨hnodup, hmem, fun i u b hu hlink => hleads i b ⟨u, hu, hlink⟩⟩⟩

/-- R92: only a FILLING or STALE buffer has a leader. -/
theorem not_isValid_of_leaderOf {x : Buffer} {i : SlotId} (h : leaderOf x = some i) : ¬ isValid x = true := by
  cases x with
  | valid k block => cases h
  | _ => nofun

/-! ## One buffer -/

/-- What becomes of a buffer that is not obtained and whose fill does not end: its key is live only if it was, it is VALID only if
it was, and its leader stays. -/
structure Wanes (x y : Buffer) : Prop where
  key : ∀ k, liveKey y = some k → liveKey x = some k
  valid : isValid y = true → isValid x = true
  leader : leaderOf y = leaderOf x

theorem Wanes.refl (x : Buffer) : Wanes x x := ⟨fun _ h => h, id, rfl⟩

theorem Wanes.trans {x y z : Buffer} (h : Wanes x y) (k : Wanes y z) : Wanes x z :=
  ⟨fun key hz => h.key key (k.key key hz), h.valid ∘ k.valid, k.leader.trans h.leader⟩

/-- R104, R105. -/
theorem wanes_withdrawn (x : Buffer) : Wanes x (withdrawn x) := by
  cases x <;> exact ⟨nofun, nofun, rfl⟩

/-- R99, R103, R107: followers come and go. -/
theorem wanes_filling (k : BufferKey) (l : SlotId) (fs gs : List SlotId) : Wanes (.filling k l fs) (.filling k l gs) :=
  ⟨fun _ h => h, id, rfl⟩

theorem wanes_stale (k : BufferKey) (l : SlotId) (fs gs : List SlotId) : Wanes (.stale k l fs) (.stale k l gs) :=
  ⟨fun _ h => h, id, rfl⟩

/-! ## A state in which nothing new is held or led -/

/-- No buffer is obtained, no fill ends and no slot becomes a leader: every buffer wanes, the LRU list loses just the buffers that
are VALID no longer, and no queue gains a write to a live buffer's block. -/
structure Recedes (s t : State) : Prop where
  wanes : ∀ b, Wanes (peek s.buffers b) (peek t.buffers b)
  sublist : t.lru.Sublist s.lru
  stays : ∀ b, b ∈ s.lru → isValid (peek t.buffers b) = true → b ∈ t.lru
  leaves : ∀ b, b ∈ t.lru → isValid (peek s.buffers b) = true → isValid (peek t.buffers b) = true
  queued : ∀ b k, liveKey (peek t.buffers b) = some k → blockQueued k s = false → blockQueued k t = false
  leads : ∀ i b, Leads t i b → Leads s i b

/-- What the laws of the buffers are read from. -/
def bufferPart (s : State) : Vector Slot 64 × Vector Buffer 8 × List BufferId × Vector PostedQueue 4 :=
  (s.slots, s.buffers, s.lru, s.pwqs)

theorem blockQueued_congr {s t : State} (h : t.pwqs = s.pwqs) (k : BufferKey) : blockQueued k t = blockQueued k s := by
  rw [blockQueued, blockQueued, h]

namespace Recedes

/-- An operation that frees slots, or changes their records but makes no leader. -/
theorem of_leads {s t : State} (hbuffers : t.buffers = s.buffers) (hlru : t.lru = s.lru) (hpwqs : t.pwqs = s.pwqs)
    (hleads : ∀ i b, Leads t i b → Leads s i b) : Recedes s t := by
  refine ⟨fun b => ?_, ?_, fun b hb _ => ?_, fun b _ hv => ?_, fun b k _ hk => ?_, hleads⟩
  · rw [hbuffers]
    exact .refl _
  · rw [hlru]
  · rwa [hlru]
  · rwa [hbuffers]
  · rwa [blockQueued_congr hpwqs]

theorem of_same {s t : State} (h : bufferPart t = bufferPart s) : Recedes s t := by
  simp only [bufferPart, Prod.mk.injEq] at h
  obtain ⟨hslots, hbuffers, hlru, hpwqs⟩ := h
  exact of_leads hbuffers hlru hpwqs fun i b hl => hl.of_slots hslots

theorem refl (s : State) : Recedes s s := of_same rfl

theorem trans {a b c : State} (h : Recedes a b) (k : Recedes b c) : Recedes a c where
  wanes x := (h.wanes x).trans (k.wanes x)
  sublist := k.sublist.trans h.sublist
  stays x hx hc := k.stays x (h.stays x hx ((k.wanes x).valid hc)) hc
  leaves x hx ha := k.leaves x hx (h.leaves x (k.sublist.subset hx) ha)
  queued x key hc ha := k.queued x key hc (h.queued x key ((k.wanes x).key key hc) ha)
  leads i x hl := h.leads i x (k.leads i x hl)

theorem fold {α : Type} (f : State → α → State) (h : ∀ s x, Recedes s (f s x)) (l : List α) (s : State) :
    Recedes s (l.foldl f s) := fold_keeps Recedes.refl Recedes.trans f h l s

/-- An operation that recedes, run on a state that the laws of the buffers read the same. -/
theorem from_same {s t u : State} (k : Recedes t u) (h : bufferPart t = bufferPart s) : Recedes s u := (of_same h).trans k

theorem setUse {i : SlotId} {u v : SlotUse} {s : State} (hu : slotUse s i = some u) (hlink : v.fillLink = u.fillLink) :
    Recedes s (putUse i (some v) s) := by
  refine of_leads rfl rfl rfl fun j c hl => ?_
  obtain ⟨rfl, w, hw, hleader⟩ | ⟨-, hl⟩ := hl.of_putUse
  · cases hw
    exact ⟨u, hu, hlink ▸ hleader⟩
  · exact hl

/-- A slot that comes to follow a fill leads none (R99). -/
theorem setFollower {i : SlotId} {b : BufferId} {v : SlotUse} (s : State) (hlink : v.fillLink = some (.follower b)) :
    Recedes s (putUse i (some v) s) := by
  refine of_leads rfl rfl rfl fun j c hl => ?_
  obtain ⟨rfl, w, hw, hleader⟩ | ⟨-, hl⟩ := hl.of_putUse
  · cases hw
    rw [hlink] at hleader
    cases hleader
  · exact hl

/-- A slot that loses its record leads nothing. -/
theorem dropUse (i : SlotId) (s : State) : Recedes s (putUse i none s) := by
  refine of_leads rfl rfl rfl fun j c hl => ?_
  obtain ⟨-, w, hw, -⟩ | ⟨-, hl⟩ := hl.of_putUse
  · cases hw
  · exact hl

/-- Buffers whose followers change. -/
theorem setBuffers {s : State} {buffers : Vector Buffer 8} (h : ∀ b, Wanes (peek s.buffers b) (peek buffers b))
    (hvalid : ∀ b, isValid (peek buffers b) = isValid (peek s.buffers b)) :
    Recedes s { s with buffers := buffers } where
  wanes := h
  sublist := .refl _
  stays _ hb _ := hb
  leaves b _ hv := (hvalid b).trans hv
  queued _ _ _ hk := hk
  leads _ _ hl := hl

/-- R94, R104, R106: buffers that are withdrawn leave the LRU list with it. -/
theorem withdraw {s : State} {buffers : Vector Buffer 8} (h : ∀ b, Wanes (peek s.buffers b) (peek buffers b)) :
    Recedes s { s with buffers := buffers, lru := keepValid buffers s.lru } where
  wanes := h
  sublist := List.filter_sublist
  stays _ hb hv := List.mem_filter.2 ⟨hb, hv⟩
  leaves _ hb _ := (List.mem_filter.1 hb).2
  queued _ _ _ hk := hk
  leads _ _ hl := hl

/-- A queue whose entries all lie at addresses of entries that it held. -/
theorem setQueue {s : State} {p : Port} {q : PostedQueue}
    (h : ∀ e ∈ q.entries, ∃ x ∈ (peek s.pwqs p).entries, x.address = e.address) :
    Recedes s { s with pwqs := poke s.pwqs p q } where
  wanes _ := .refl _
  sublist := .refl _
  stays _ hb _ := hb
  leaves _ _ hv := hv
  queued b k _ := by
    rw [← Bool.not_eq_true, ← Bool.not_eq_true, blockQueued_iff, blockQueued_iff]
    refine mt ?_
    rintro ⟨e, he, hblock⟩
    dsimp only at he
    rw [peek_poke] at he
    split at he
    · next hp =>
      subst hp
      obtain ⟨x, hx, haddress⟩ := h e he
      exact ⟨x, hx, haddress ▸ hblock⟩
    · exact ⟨e, he, hblock⟩
  leads _ _ hl := hl

end Recedes

theorem ServiceFrame.bufferPart {s t : State} (h : ServiceFrame s t) : bufferPart t = bufferPart s := by
  rw [Machine.bufferPart, Machine.bufferPart, h.slots, h.buffers, h.lru, h.pwqs]

/-! ## The laws of the buffers, kept -/

/-- If the laws of the buffers hold in one state, they hold in the other: the keys and the queues of R93 and R95, and the LRU list
and the leaders of R92 and R94. -/
structure KeepsBuffers (s t : State) : Prop where
  fresh : KeysUnique s → BuffersFresh s → KeysUnique t ∧ BuffersFresh t
  lru : LruExact s → LruExact t

/-- R93, R95: live keys that are none but the old ones, with no new write to their blocks. -/
theorem fresh_of_live {s t : State} (hu : KeysUnique s) (hf : BuffersFresh s)
    (hlive : ∀ b k, liveKey (peek t.buffers b) = some k → liveKey (peek s.buffers b) = some k)
    (hqueued : ∀ b k, liveKey (peek t.buffers b) = some k → blockQueued k s = false → blockQueued k t = false) :
    KeysUnique t ∧ BuffersFresh t :=
  ⟨fun b c k hb hc => hu b c k (hlive b k hb) (hlive c k hc), fun b k hb => hqueued b k hb (hf b k (hlive b k hb))⟩

theorem Recedes.keeps {s t : State} (h : Recedes s t) : KeepsBuffers s t := by
  refine ⟨fun hu hf => fresh_of_live hu hf (fun b => (h.wanes b).key) h.queued, fun hs => ?_⟩
  obtain ⟨hnodup, hmem, hleads⟩ := (lruExact_iff s).1 hs
  refine (lruExact_iff t).2 ⟨hnodup.sublist h.sublist, fun b => ⟨fun hb => ?_, fun hv => ?_⟩, fun i b hl => ?_⟩
  · exact h.leaves b hb ((hmem b).1 (h.sublist.subset hb))
  · exact h.stays b ((hmem b).2 ((h.wanes b).valid hv)) hv
  · rw [(h.wanes b).leader]
    exact hleads i b (h.leads i b hl)

namespace KeepsBuffers

theorem refl (s : State) : KeepsBuffers s s := (Recedes.refl s).keeps

theorem trans {a b c : State} (h : KeepsBuffers a b) (k : KeepsBuffers b c) : KeepsBuffers a c :=
  ⟨fun hu hf => (h.fresh hu hf).elim k.fresh, k.lru ∘ h.lru⟩

theorem fold {α : Type} (f : State → α → State) (h : ∀ s x, KeepsBuffers s (f s x)) (l : List α) (s : State) :
    KeepsBuffers s (l.foldl f s) := fold_keeps KeepsBuffers.refl KeepsBuffers.trans f h l s

theorem of_same {s t : State} (h : bufferPart t = bufferPart s) : KeepsBuffers s t := (Recedes.of_same h).keeps

/-- An operation that keeps the laws, run on a state that they read the same. -/
theorem from_same {s t u : State} (k : KeepsBuffers t u) (h : bufferPart t = bufferPart s) : KeepsBuffers s u :=
  (of_same h).trans k

end KeepsBuffers

/-! ## A buffer at the newest end of the LRU list (R94) -/

theorem mem_touched {b c : BufferId} {l : List BufferId} : c ∈ without b l ++ [b] ↔ c = b ∨ c ∈ l := by
  by_cases h : c = b <;> simp [without, h]

theorem nodup_touched {b : BufferId} {l : List BufferId} (h : l.Nodup) : (without b l ++ [b]).Nodup := by
  refine List.nodup_append'.2 ⟨h.filter _, List.nodup_singleton b, ?_⟩
  simp [without]

/-- R94: a hit moves a VALID buffer to the newest end. -/
theorem touchBuffer_keepsBuffers {b : BufferId} {s : State} (h : isValid (peek s.buffers b) = true) :
    KeepsBuffers s (touchBuffer b s) := by
  refine ⟨fun hu hf => ⟨hu, hf⟩, fun hs => ?_⟩
  obtain ⟨hnodup, hmem, hleads⟩ := (lruExact_iff s).1 hs
  refine (lruExact_iff _).2 ⟨nodup_touched hnodup, fun c => ?_, hleads⟩
  refine mem_touched.trans ((or_congr_right (hmem c)).trans (or_iff_right_of_imp ?_))
  rintro rfl
  exact h

/-! ## The end of a fill (R100 to R102, R106, R107) -/

/-- A fill ends: the buffer that a slot leads becomes another, and the slot leads no more. -/
structure FillEnds (i : SlotId) (b : BufferId) (x : Buffer) (s t : State) : Prop where
  led : Leads s i b
  buffers : t.buffers = poke s.buffers b x
  pwqs : t.pwqs = s.pwqs
  leads : ∀ j c, Leads t j c → Leads s j c ∧ j ≠ i

namespace FillEnds

variable {i : SlotId} {b : BufferId} {x : Buffer} {s t : State}

theorem peek_buffers (h : FillEnds i b x s t) (c : BufferId) :
    peek t.buffers c = if b = c then x else peek s.buffers c := by
  rw [h.buffers, peek_poke]

/-- The other leaders lead other buffers, which are as they were. -/
theorem leaders (h : FillEnds i b x s t) (hs : ∀ j c, Leads s j c → leaderOf (peek s.buffers c) = some j) :
    ∀ j c, Leads t j c → leaderOf (peek t.buffers c) = some j := by
  intro j c hl
  obtain ⟨hl, hji⟩ := h.leads j c hl
  have hbc : b ≠ c := by
    rintro rfl
    exact hji (Option.some.inj ((hs j b hl).symm.trans (hs i b h.led)))
  rw [h.peek_buffers, if_neg hbc]
  exact hs j c hl

theorem fresh (h : FillEnds i b x s t) (hx : ∀ k, liveKey x = some k → liveKey (peek s.buffers b) = some k)
    (hu : KeysUnique s) (hf : BuffersFresh s) : KeysUnique t ∧ BuffersFresh t := by
  refine fresh_of_live hu hf (fun c k hc => ?_) fun c k _ hk => by rwa [blockQueued_congr h.pwqs]
  rw [h.peek_buffers] at hc
  split at hc
  · next hbc => exact hbc ▸ hx k hc
  · exact hc

/-- R101, R102, R106: the buffer of a failed fill, which was in no list, is FREE. -/
theorem abandoned (h : FillEnds i b .free s t) (hlru : t.lru = s.lru) : KeepsBuffers s t := by
  refine ⟨h.fresh nofun, fun hs => ?_⟩
  obtain ⟨hnodup, hmem, hleads⟩ := (lruExact_iff s).1 hs
  refine (lruExact_iff t).2 ⟨hlru ▸ hnodup, fun c => ?_, h.leaders hleads⟩
  rw [hlru, hmem c, h.peek_buffers]
  split
  · next hbc =>
    subst hbc
    exact iff_of_false (not_isValid_of_leaderOf (hleads i b h.led)) nofun
  · rfl

/-- R100: the buffer of a good fill is VALID under its key, at the newest end of the list. -/
theorem kept {k : BufferKey} {block : List Byte} {l : SlotId} {fs : List SlotId}
    (h : FillEnds i b (.valid k block) s t) (hb : peek s.buffers b = .filling k l fs) (hlru : t.lru = without b s.lru ++ [b]) :
    KeepsBuffers s t := by
  refine ⟨h.fresh fun key hk => by rwa [hb], fun hs => ?_⟩
  obtain ⟨hnodup, hmem, hleads⟩ := (lruExact_iff s).1 hs
  refine (lruExact_iff t).2 ⟨hlru ▸ nodup_touched hnodup, fun c => ?_, h.leaders hleads⟩
  rw [hlru, mem_touched, hmem c, h.peek_buffers]
  split
  · next hbc => exact iff_of_true (.inl hbc.symm) rfl
  · next hbc => exact or_iff_right (Ne.symm hbc)

end FillEnds

/-! ## An obtained buffer (R93, R95, R98) -/

/-- R93: no live buffer holds the key of a read that finds neither a VALID nor a FILLING one. -/
theorem liveKey_of_unfound {key : BufferKey} {s : State} (hvalid : findValid key s = none)
    (hfilling : findFilling key s = none) (b : BufferId) : liveKey (peek s.buffers b) ≠ some key := by
  have hnotValid := findValid_eq_none_iff.1 hvalid b
  have hnotFilling := findFilling_eq_none_iff.1 hfilling b
  intro h
  cases hb : peek s.buffers b with
  | valid k block =>
    rw [hb] at h
    cases h
    exact hnotValid ⟨block, hb⟩
  | filling k l fs =>
    rw [hb] at h
    cases h
    exact hnotFilling ⟨l, fs, hb⟩
  | _ =>
    rw [hb] at h
    cases h

/-- R95: the buffer obtained is FREE, or VALID and in the LRU list. -/
theorem obtainable_cases {s : State} {b : BufferId} (h : obtainable s = some b) : peek s.buffers b = .free ∨ b ∈ s.lru := by
  unfold obtainable at h
  split at h
  · next c hfind =>
    cases h
    exact .inl (of_decide_eq_true (List.find?_some (p := fun b => decide (peek s.buffers b = .free)) hfind))
  · exact .inr (List.mem_of_mem_head? h)

/-- A slot obtains a buffer and leads its fill, before it enters the dispatch list (R98). -/
def obtained (b : BufferId) (i : SlotId) (u : SlotUse) (s : State) : State :=
  { putBuffer b (.filling (keyOf u.port u.address) i [])
      (putUse i (some { u with fillLink := some (.leader b), received := List.replicate 256 none }) s) with
    lru := without b s.lru }

theorem leadFill_eq (b : BufferId) (i : SlotId) (u : SlotUse) (s : State) :
    leadFill b i u s = enterReady i (obtained b i u s) := rfl

section Obtained

variable {b : BufferId} {i : SlotId} {u : SlotUse} {s : State}

theorem obtained_buffers (c : BufferId) :
    peek (obtained b i u s).buffers c = if b = c then .filling (keyOf u.port u.address) i [] else peek s.buffers c :=
  peek_poke _ _ _ _

theorem obtained_leads {j : SlotId} {c : BufferId} (h : Leads (obtained b i u s) j c) : (j = i ∧ c = b) ∨ Leads s j c := by
  have hput : Leads (putUse i (some { u with fillLink := some (.leader b), received := List.replicate 256 none }) s) j c := h
  obtain ⟨rfl, w, hw, hlink⟩ | ⟨-, hl⟩ := hput.of_putUse
  · cases hw
    cases hlink
    exact .inl ⟨rfl, rfl⟩
  · exact .inr hl

/-- R93, R95: the key that becomes live was not, and no write to its block is queued. -/
theorem obtained_fresh (hvalid : findValid (keyOf u.port u.address) s = none)
    (hfilling : findFilling (keyOf u.port u.address) s = none) (hqueue : blockQueued (keyOf u.port u.address) s = false)
    (hu : KeysUnique s) (hf : BuffersFresh s) : KeysUnique (obtained b i u s) ∧ BuffersFresh (obtained b i u s) := by
  have hunfound := liveKey_of_unfound hvalid hfilling
  refine ⟨fun c d k hc hd => ?_, fun c k hc => ?_⟩
  · rw [obtained_buffers] at hc hd
    split at hc <;> split at hd
    · next hbc hbd => exact hbc.symm.trans hbd
    · cases hc
      exact absurd hd (hunfound d)
    · cases hd
      exact absurd hc (hunfound c)
    · exact hu c d k hc hd
  · rw [obtained_buffers] at hc
    split at hc
    · cases hc
      exact hqueue
    · exact hf c k hc

/-- R94, R98: the buffer leaves the list, and its leader is the slot; no slot led it. -/
theorem obtained_lruExact (hb : obtainable s = some b) (hs : LruExact s) : LruExact (obtained b i u s) := by
  obtain ⟨hnodup, hmem, hleads⟩ := (lruExact_iff s).1 hs
  have hled : ∀ j, ¬ Leads s j b := by
    intro j hl
    have hleader := hleads j b hl
    obtain hfree | hlisted := obtainable_cases hb
    · rw [hfree] at hleader
      cases hleader
    · exact not_isValid_of_leaderOf hleader ((hmem b).1 hlisted)
  refine (lruExact_iff _).2 ⟨hnodup.filter _, fun c => ?_, fun j c hl => ?_⟩
  · have hlru : (obtained b i u s).lru = without b s.lru := rfl
    have hlisted : c ∈ without b s.lru ↔ c ∈ s.lru ∧ c ≠ b := by simp [without]
    rw [hlru, hlisted, hmem c, obtained_buffers]
    split
    · next hbc => exact iff_of_false (fun h => h.2 hbc.symm) nofun
    · next hbc => exact and_iff_left (Ne.symm hbc)
  · obtain ⟨rfl, rfl⟩ | hl := obtained_leads hl
    · rw [obtained_buffers, if_pos rfl]
      rfl
    · have hbc : b ≠ c := by
        rintro rfl
        exact hled j hl
      rw [obtained_buffers, if_neg hbc]
      exact hleads j c hl

theorem obtained_keepsBuffers (hvalid : findValid (keyOf u.port u.address) s = none)
    (hfilling : findFilling (keyOf u.port u.address) s = none) (hqueue : blockQueued (keyOf u.port u.address) s = false)
    (hb : obtainable s = some b) : KeepsBuffers s (obtained b i u s) :=
  ⟨obtained_fresh hvalid hfilling hqueue, obtained_lruExact hb⟩

end Obtained

end Sys2Proof.Machine
end

section
/-! PROOFS. The buffers, the LRU list and the leaders through every shared operation of the blocks (R92 to R107). -/

namespace Sys2Proof.Machine

/-! ## Answers -/

theorem FreeFrame.recedes {s t : State} (h : FreeFrame s t) (hleads : ∀ i b, Leads t i b → Leads s i b) : Recedes s t :=
  .of_leads h.buffers h.lru h.pwqs hleads

/-- A slot leads nothing any more, and no other slot comes to lead; buffers, LRU list and queues are as they were. -/
structure Released (i : SlotId) (s t : State) : Prop where
  frame : FreeFrame s t
  leads : ∀ j c, Leads t j c → Leads s j c ∧ j ≠ i

theorem Released.recedes {i : SlotId} {s t : State} (h : Released i s t) : Recedes s t :=
  h.frame.recedes fun j c hl => (h.leads j c hl).1

theorem released_of_frees {i : SlotId} {s t : State} (hframe : FreeFrame s t) (hleads : ∀ j c, Leads t j c → Leads s j c)
    (hfrees : slotUse t i = none) : Released i s t := by
  refine ⟨hframe, fun j c hl => ⟨hleads j c hl, ?_⟩⟩
  rintro rfl
  obtain ⟨w, hw, -⟩ := hl
  rw [hfrees] at hw
  cases hw

theorem storeRecord_bufferPart (x : RecordBody) (s : State) : bufferPart (storeRecord x s) = bufferPart s := by
  rw [bufferPart, storeRecord_slots, storeRecord_buffers, storeRecord_lru, storeRecord_pwqs]
  rfl

theorem storeRecord_recedes (x : RecordBody) (s : State) : Recedes s (storeRecord x s) :=
  .of_same (storeRecord_bufferPart x s)

theorem countDown_recedes (g : Generation) (s : State) : Recedes s (countDown g s) :=
  (countDown_frame g s).recedes fun _ _ hl => hl.of_slots (countDown_slots g s)

theorem reply_recedes (u : SlotUse) (st : Status) (data : List Byte) (s : State) : Recedes s (reply u st data s) := by
  unfold reply
  split
  · exact .refl s
  · exact .of_same rfl

theorem freeSlot_recedes (i : SlotId) (s : State) : Recedes s (freeSlot i s) := by
  unfold freeSlot
  split
  · exact .refl s
  · exact (Recedes.dropUse i s).trans (countDown_recedes _ _)

theorem answerSlot_recedes (i : SlotId) (st : Status) (data : List Byte) (s : State) :
    Recedes s (answerSlot i st data s) := by
  unfold answerSlot
  split
  · exact .refl s
  · exact (reply_recedes _ st data s).trans (freeSlot_recedes i _)

theorem answerSlot_released (i : SlotId) (st : Status) (data : List Byte) (s : State) :
    Released i s (answerSlot i st data s) :=
  released_of_frees (answerSlot_frame i st data s) (answerSlot_recedes i st data s).leads (answerSlot_frees i st data s)

theorem answerFollowersDone_recedes (block : List Byte) (l : List SlotId) (s : State) :
    Recedes s (answerFollowersDone block l s) := by
  refine .fold _ (fun s i => ?_) l s
  split
  · exact answerSlot_recedes i _ _ s
  · exact .refl s

theorem answerFollowersFailed_recedes (st : Status) (l : List SlotId) (s : State) :
    Recedes s (answerFollowersFailed st l s) := by
  refine .fold _ (fun s i => ?_) l s
  split
  · exact answerSlot_recedes i _ _ s
  · exact .refl s

/-! ## The end of the fill that a slot leads (R100 to R102, R106) -/

/-- R101, R102, R106: a slot that has been answered ends the fill it led. -/
theorem endLedFill_keepsBuffers {i : SlotId} {u : SlotUse} {s t : State} (hu : slotUse s i = some u) (h : Released i s t)
    (st : Status) : KeepsBuffers s (endLedFill u st t) := by
  unfold endLedFill
  split
  · next b hlink =>
    have hended : KeepsBuffers s (putBuffer b .free t) :=
      FillEnds.abandoned (i := i) (b := b)
        ⟨⟨u, hu, hlink⟩, by rw [putBuffer_buffers, h.frame.buffers], h.frame.pwqs, h.leads⟩ h.frame.lru
    unfold endFillFailed
    split
    · exact hended.trans (answerFollowersFailed_recedes st _ _).keeps
    · exact hended.trans (answerFollowersFailed_recedes st _ _).keeps
    · exact h.recedes.keeps
    · exact h.recedes.keeps
  · exact h.recedes.keeps
  · exact h.recedes.keeps

theorem failSlot_keepsBuffers (i : SlotId) (st : Status) (s : State) : KeepsBuffers s (failSlot i st s) := by
  unfold failSlot
  split
  · exact .refl s
  · next u hu => exact endLedFill_keepsBuffers hu (answerSlot_released i st _ s) st

/-- R100: the fill of a leader whose block is complete ends, and the leader is FREE after its followers. -/
theorem endFillDone_freeSlot_keepsBuffers {i : SlotId} {b : BufferId} {s : State} (hled : Leads s i b) (block : List Byte) :
    KeepsBuffers s (freeSlot i (endFillDone b block s)) := by
  have hends : ∀ (fs : List SlotId) (x : Buffer) (l : List BufferId),
      FillEnds i b x s (freeSlot i { answerFollowersDone block fs s with buffers := poke s.buffers b x, lru := l }) := by
    intro fs x l
    have hframe := freeSlot_frame i { answerFollowersDone block fs s with buffers := poke s.buffers b x, lru := l }
    have hfreed := released_of_frees hframe (freeSlot_recedes i _).leads (freeSlot_frees i _)
    refine ⟨hled, hframe.buffers, hframe.pwqs.trans (answerFollowersDone_frame block fs s).pwqs, fun j c hl => ?_⟩
    obtain ⟨hl, hji⟩ := hfreed.leads j c hl
    exact ⟨(answerFollowersDone_recedes block fs s).leads j c hl, hji⟩
  cases hb : peek s.buffers b with
  | filling k l fs =>
    rw [endFillDone_filling block hb]
    exact (hends fs _ _).kept hb (freeSlot_frame i _).lru
  | stale k l fs =>
    rw [endFillDone_stale block hb]
    have hlru := (answerFollowersDone_frame block fs s).lru
    exact (hends fs .free _).abandoned ((freeSlot_frame i _).lru.trans hlru)
  | free =>
    simp only [endFillDone, hb]
    exact (freeSlot_recedes i s).keeps
  | valid k data =>
    simp only [endFillDone, hb]
    exact (freeSlot_recedes i s).keeps

/-! ## The ready point (R60, R61, R97 to R99) -/

theorem enterReady_recedes (i : SlotId) (s : State) : Recedes s (enterReady i s) := by
  unfold enterReady
  split
  · exact .refl s
  · next u hu => exact (Recedes.setUse (v := { u with state := .ready }) hu rfl).trans (.of_same rfl)

/-- A buffer whose followers change, in the place it has. -/
theorem putBuffer_recedes {b : BufferId} {x : Buffer} {s : State} (h : Wanes (peek s.buffers b) x)
    (hvalid : isValid x = isValid (peek s.buffers b)) : Recedes s (putBuffer b x s) := by
  refine Recedes.setBuffers (fun c => ?_) fun c => ?_
  · rw [peek_poke]
    split
    · next hbc => exact hbc ▸ h
    · exact .refl _
  · rw [peek_poke]
    split
    · next hbc => exact hbc ▸ hvalid
    · rfl

/-- R99: a slot that follows a fill joins the followers of a FILLING buffer. -/
theorem followFill_recedes (b : BufferId) (i : SlotId) (u : SlotUse) (s : State) : Recedes s (followFill b i u s) := by
  refine (Recedes.setFollower (i := i) (b := b) (v := { u with state := .fillWait, fillLink := some (.follower b) }) s
    rfl).trans ?_
  unfold followFill
  dsimp only
  split
  · next k l fs hb => exact putBuffer_recedes (hb ▸ wanes_filling k l fs _) (by rw [hb]; rfl)
  · exact .refl _
  · exact .refl _
  · exact .refl _

theorem readFromBuffers_keepsBuffers (i : SlotId) (u : SlotUse) (s : State) : KeepsBuffers s (readFromBuffers i u s) := by
  cases hvalid : findValid (keyOf u.port u.address) s with
  | some found =>
    obtain ⟨b, block⟩ := found
    obtain ⟨hb, -⟩ := findValid_eq_some_iff.1 hvalid
    rw [readFromBuffers_hit hvalid]
    exact (touchBuffer_keepsBuffers (by rw [hb]; rfl)).trans (answerSlot_recedes i _ _ _).keeps
  | none =>
    cases hfilling : findFilling (keyOf u.port u.address) s with
    | some b =>
      rw [readFromBuffers_follows hvalid hfilling]
      exact (followFill_recedes b i u s).keeps
    | none =>
      cases hqueue : blockQueued (keyOf u.port u.address) s with
      | true =>
        rw [readFromBuffers_alone hvalid hfilling (.inl hqueue)]
        exact (enterReady_recedes i s).keeps
      | false =>
        cases hobtain : obtainable s with
        | some b =>
          rw [readFromBuffers_leads hvalid hfilling hqueue hobtain, leadFill_eq]
          exact (obtained_keepsBuffers hvalid hfilling hqueue hobtain).trans (enterReady_recedes i _).keeps
        | none =>
          rw [readFromBuffers_alone hvalid hfilling (.inr hobtain)]
          exact (enterReady_recedes i s).keeps

theorem readyPoint_keepsBuffers (i : SlotId) (s : State) : KeepsBuffers s (readyPoint i s) := by
  unfold readyPoint
  split
  · exact .refl s
  · split
    · exact failSlot_keepsBuffers i _ s
    · split
      · exact (enterReady_recedes i s).keeps
      · split
        · exact readFromBuffers_keepsBuffers i _ s
        · exact (enterReady_recedes i s).keeps

theorem enterFenceWait_recedes {i : SlotId} {u : SlotUse} {s : State} (hu : slotUse s i = some u) :
    Recedes s (enterFenceWait i u s) :=
  (Recedes.setUse (v := { u with state := .fenceWait }) hu rfl).trans (.of_same rfl)

theorem meetFence_keepsBuffers (i : SlotId) (s : State) : KeepsBuffers s (meetFence i s) := by
  unfold meetFence
  split
  · exact .refl s
  · next u hu =>
    split
    · exact (enterFenceWait_recedes hu).keeps
    · exact readyPoint_keepsBuffers i s

/-! ## Locks, waiting orders and fences -/

/-- R71, R103: a slot that leaves a follower list leaves the buffer its state, key and leader. -/
theorem leaveLists_recedes (i : SlotId) (u : SlotUse) (s : State) : Recedes s (leaveLists i u s) := by
  unfold leaveLists
  split
  · exact .of_same rfl
  · exact .of_same rfl
  · exact .of_same rfl
  · split
    · next b _ =>
      refine putBuffer_recedes (b := b) ?_ ?_
      · cases peek s.buffers b with
        | filling k l fs => exact wanes_filling k l fs _
        | stale k l fs => exact wanes_stale k l fs _
        | free => exact .refl _
        | valid k block => exact .refl _
      · cases peek s.buffers b <;> rfl
    · exact .refl s
  · exact .refl s
  · exact .refl s
  · exact .refl s

theorem enterLockWait_recedes (i : SlotId) (s : State) : Recedes s (enterLockWait i s) := by
  unfold enterLockWait
  split
  · exact .refl s
  · next u hu => exact (Recedes.setUse (v := { u with state := .lockWait }) hu rfl).trans (.of_same rfl)

theorem moveToLockWait_recedes (i : SlotId) (s : State) : Recedes s (moveToLockWait i s) := by
  unfold moveToLockWait
  split
  · exact .refl s
  · exact (leaveLists_recedes i _ s).trans (enterLockWait_recedes i _)

theorem claimLock_recedes (p : Port) (i : SlotId) (u : SlotUse) (s : State) : Recedes s (claimLock p i u s) := by
  unfold claimLock
  exact (Recedes.fold _ (fun s j => moveToLockWait_recedes j s) _ _).from_same rfl

theorem releaseFromWaiting_keepsBuffers (p : Port) (i : SlotId) (s : State) :
    KeepsBuffers s (releaseFromWaiting p i s) := (meetFence_keepsBuffers i _).from_same rfl

theorem claimFromWaiting_keepsBuffers (p : Port) (i : SlotId) (u : SlotUse) (s : State) :
    KeepsBuffers s (claimFromWaiting p i u s) :=
  ((claimLock_recedes p i u _).keeps.trans (meetFence_keepsBuffers i _)).from_same rfl

theorem processOrder_keepsBuffers {reopen : State → State} (h : ∀ s, KeepsBuffers s (reopen s)) (p : Port)
    (l : List SlotId) : ∀ s, KeepsBuffers s (processOrder reopen p l s) := by
  induction l with
  | nil => exact .refl
  | cons i rest ih =>
    intro s
    unfold processOrder
    split
    · exact ih s
    · split
      · dsimp only
        split
        · exact (claimFromWaiting_keepsBuffers p i _ s).trans (h _)
        · exact (claimFromWaiting_keepsBuffers p i _ s).trans
            (.fold _ (fun s j => releaseFromWaiting_keepsBuffers p j s) _ _)
      · exact (releaseFromWaiting_keepsBuffers p i s).trans (ih _)

theorem openLockWithin_keepsBuffers (n : Nat) (p : Port) : ∀ s, KeepsBuffers s (openLockWithin n p s) := by
  induction n with
  | zero => exact fun s => .of_same rfl
  | succ n ih => exact fun s => (processOrder_keepsBuffers ih p _ _).from_same rfl

theorem openLock_keepsBuffers (p : Port) (s : State) : KeepsBuffers s (openLock p s) := openLockWithin_keepsBuffers 64 p s

theorem lockActs_keepsBuffers (i : SlotId) (p : Port) (st : Status) (s : State) : KeepsBuffers s (lockActs i p st s) := by
  unfold lockActs
  split
  · split
    · split
      · exact .of_same rfl
      · exact openLock_keepsBuffers p s
    · exact .refl s
  · exact .refl s
  · exact .refl s

theorem breakLock_recedes (p : Port) (c : BreakCause) (s : State) : Recedes s (breakLock p c s) := by
  unfold breakLock
  split
  · exact .refl s
  · exact (storeRecord_recedes _ _).from_same rfl
  · exact (storeRecord_recedes _ _).from_same rfl

theorem takeTurn_keepsBuffers (i : SlotId) (s : State) : KeepsBuffers s (takeTurn i s) := by
  unfold takeTurn
  split
  · exact .refl s
  · split
    · split
      · exact (readyPoint_keepsBuffers i s).trans (lockActs_keepsBuffers i _ _ _)
      · exact readyPoint_keepsBuffers i s
    · exact .refl s

theorem testFences_keepsBuffers (others : List SlotId) (s : State) : KeepsBuffers s (testFences others s) := by
  unfold testFences
  exact (KeepsBuffers.fold _ (fun s i => takeTurn_keepsBuffers i s) _ _).from_same rfl

/-! ## Withdrawal and allocation (R57, R104, R105) -/

theorem withdrawBlock_recedes (key : BufferKey) (s : State) : Recedes s (withdrawBlock key s) := by
  refine Recedes.withdraw fun b => ?_
  rw [peek_map]
  split
  · exact wanes_withdrawn _
  · exact .refl _

/-- R105: no buffer is VALID after a commit. -/
theorem withdrawAll_recedes (s : State) : Recedes s (withdrawAll s) := by
  have hwanes : ∀ b, Wanes (peek s.buffers b) (peek (s.buffers.map withdrawn) b) := by
    intro b
    rw [peek_map]
    exact wanes_withdrawn _
  have hlru : keepValid (s.buffers.map withdrawn) s.lru = [] := by
    refine List.filter_eq_nil_iff.2 fun b _ => ?_
    rw [peek_map]
    cases peek s.buffers b <;> nofun
  have hkept := Recedes.withdraw hwanes
  rwa [hlru] at hkept

theorem signalWrite_recedes (k : SlotKind) (r : DecodeRecord) (s : State) : Recedes s (signalWrite k r s) := by
  unfold signalWrite
  split
  · exact withdrawBlock_recedes _ s
  · exact .refl s

theorem firstState_keepsBuffers (i : SlotId) (u : SlotUse) (s : State) : KeepsBuffers s (firstState i u s) := by
  unfold firstState
  split
  · exact (enterLockWait_recedes i s).keeps
  · split
    · exact (claimLock_recedes _ i u s).keeps.trans (meetFence_keepsBuffers i _)
    · exact meetFence_keepsBuffers i s

/-- A slot filled with a record that leads nothing. -/
theorem fillSlot_recedes {i : SlotId} {x : Slot} {u : SlotUse} (s : State) (hx : x.use = some u) (hlink : u.fillLink = none) :
    Recedes s { s with slots := poke s.slots i x } := by
  refine .of_leads rfl rfl rfl fun j c hl => ?_
  obtain ⟨w, hw, hleader⟩ := hl
  rw [slotUse, peek_poke] at hw
  split at hw
  · rw [hx] at hw
    cases hw
    rw [hlink] at hleader
    cases hleader
  · exact ⟨w, hw, hleader⟩

theorem allocate_keepsBuffers (e : NonPostedEntry) (k : SlotKind) (data : List Byte) (r : DecodeRecord) (s : State) :
    KeepsBuffers s (allocate e k data r s) := by
  unfold allocate
  split
  · exact .refl s
  · next i _ =>
    have hfilled := fillSlot_recedes (i := i)
      (x := { epoch := (peek s.slots i).epoch + 1, use := some (allocatedUse e k data r s) }) s rfl rfl
    have hcounted : Recedes s (countUp r.generation { s with
        slots := poke s.slots i { epoch := (peek s.slots i).epoch + 1, use := some (allocatedUse e k data r s) } }) :=
      hfilled.trans ((countUp_frame r.generation _).recedes fun _ _ hl => hl)
    exact (hcounted.trans (signalWrite_recedes k r _)).keeps.trans (firstState_keepsBuffers i _ _)

/-! ## The posted intake and the queues (R42, R49, R51, R95, R104) -/

/-- R104: a withdrawal leaves no buffer live under the key. -/
theorem liveKey_withdrawBlock {key : BufferKey} {s : State} (b : BufferId) :
    liveKey (peek (withdrawBlock key s).buffers b) ≠ some key := by
  rw [withdrawBlock_eq, peek_map]
  cases peek s.buffers b with
  | filling k l fs => by_cases h : k = key <;> simp [liveKey, h]
  | valid k block => by_cases h : k = key <;> simp [liveKey, h]
  | _ => nofun

/-- R42, R95, R104: a queued write withdraws the buffers of the block it joins a queue for. -/
theorem enqueuePosted_recedes (e : PostedEntry) (r : DecodeRecord) (s : State) : Recedes s (enqueuePosted e r s) := by
  have hwithdraw := withdrawBlock_recedes (keyOf r.port r.address) s
  refine { hwithdraw with queued := fun b k hk hold => ?_ }
  have hkey : k ≠ keyOf r.port r.address := by
    rintro rfl
    exact liveKey_withdrawBlock (s := s) b hk
  rw [← Bool.not_eq_true, blockQueued_iff] at hold ⊢
  rintro ⟨x, hx, hblock⟩
  have hpwqs : (enqueuePosted e r s).pwqs = poke s.pwqs r.port
      { peek s.pwqs r.port with entries := (peek s.pwqs r.port).entries ++ [queueEntry e r] } := rfl
  rw [hpwqs, peek_poke] at hx
  split at hx
  · next hport =>
    obtain hx | hx := List.mem_append.1 hx
    · exact hold ⟨x, hport ▸ hx, hblock⟩
    · cases List.mem_singleton.1 hx
      refine hkey ?_
      cases k
      cases hport
      cases hblock
      rfl
  · exact hold ⟨x, hx, hblock⟩

theorem takePosted_recedes (e : PostedEntry) (d : Decoded) (s : State) : Recedes s (takePosted e d s) := by
  unfold takePosted
  split
  · split
    · exact storeRecord_recedes _ s
    · exact .refl s
  · exact storeRecord_recedes _ s
  · exact .refl s
  · exact storeRecord_recedes _ s
  · exact enqueuePosted_recedes e _ s
  · exact .refl s
  · exact .refl s
  · exact .refl s

theorem lookUpHead_recedes (s : State) : Recedes s (lookUpHead s) := by
  refine exitPostedHeads_keeps Recedes.refl Recedes.trans (fun e d s _ rest => ?_) _ s
  have htake : Recedes s (takePosted e d { s with postedIntake := rest }) := (takePosted_recedes e d _).from_same rfl
  exact htake.trans ((appendEgress_frame _ _).recedes fun _ _ hl => hl)

theorem exitHeadsAndTest_keepsBuffers (s : State) : KeepsBuffers s (exitHeadsAndTest s) := by
  unfold exitHeadsAndTest
  dsimp only
  split
  · exact (lookUpHead_recedes s).keeps
  · exact (lookUpHead_recedes s).keeps.trans (testFences_keepsBuffers [] _)

theorem retire_keepsBuffers (p : Port) (e : QueueEntry) (s : State) : KeepsBuffers s (retire p e s) := by
  have herase : Recedes s { s with
      pwqs := poke s.pwqs p { peek s.pwqs p with entries := (peek s.pwqs p).entries.erase e } } :=
    .setQueue fun x hx => ⟨x, List.mem_of_mem_erase hx, rfl⟩
  unfold retire
  exact (herase.trans ((countDown_recedes e.generation _).trans (lookUpHead_recedes _))).keeps.trans
    (testFences_keepsBuffers [] _)

theorem discardQueue_recedes (p : Port) (c : DiscardCause) (s : State) : Recedes s (discardQueue p c s) := by
  have hempty : Recedes s { s with pwqs := poke s.pwqs p { peek s.pwqs p with entries := [] } } := .setQueue nofun
  have hcounts := hempty.trans
    (.fold (fun s e => countDown e.generation s) (fun s e => countDown_recedes e.generation s) (peek s.pwqs p).entries _)
  unfold discardQueue
  dsimp only
  split
  · exact hcounts
  · exact hcounts.trans (storeRecord_recedes _ _)

/-! ## The port exit (R74, R106, R138) -/

theorem freeValidBuffers_recedes (p : Port) (s : State) : Recedes s (freeValidBuffers p s) := by
  refine Recedes.withdraw fun b => ?_
  rw [peek_map]
  cases peek s.buffers b with
  | valid k block =>
    dsimp only
    split
    · exact wanes_withdrawn (.valid k block)
    · exact .refl _
  | _ => exact .refl _

theorem markWaiting_recedes (p : Port) (s : State) : Recedes s { s with slots := s.slots.map (markWaiting p) } := by
  refine .of_leads rfl rfl rfl fun i b hl => ?_
  obtain ⟨w, hw, hlink⟩ := hl
  rw [slotUse, peek_map, markWaiting_eq] at hw
  obtain ⟨u, hu, rfl⟩ := Option.map_eq_some_iff.1 hw
  refine ⟨u, hu, ?_⟩
  split at hlink <;> exact hlink

theorem meetFenceAtExit_recedes (i : SlotId) (s : State) : Recedes s (meetFenceAtExit i s) := by
  unfold meetFenceAtExit
  split
  · exact .refl s
  · next u hu =>
    split
    · exact enterFenceWait_recedes hu
    · exact .refl s

theorem breakAtExit_recedes (p : Port) (c : BreakCause) (s : State) : Recedes s (breakAtExit p c s) := by
  unfold breakAtExit
  split
  · refine (breakLock_recedes p c s).trans ?_
    exact (Recedes.fold _ (fun s i => meetFenceAtExit_recedes i s) _ _).from_same rfl
  · exact .refl s

theorem lostAtExit_keepsBuffers (i : SlotId) (s : State) : KeepsBuffers s (lostAtExit i s) := by
  unfold lostAtExit
  split
  · exact .refl s
  · exact (leaveLists_recedes i _ s).keeps.trans (failSlot_keepsBuffers i _ _)

theorem answerSlotsAtExit_keepsBuffers (p : Port) (s : State) : KeepsBuffers s (answerSlotsAtExit p s) := by
  unfold answerSlotsAtExit
  exact KeepsBuffers.trans (.fold _ (fun s i => lostAtExit_keepsBuffers i s) _ s)
    (Recedes.fold _ (fun s i => freeSlot_recedes i s) _ _).keeps

theorem exitBroken_recedes (p : Port) (c : ExitCauses) (s : State) : Recedes s (exitBroken p c s) :=
  (((discardQueue_recedes p c.discard s).trans (freeValidBuffers_recedes p _)).trans (markWaiting_recedes p _)).trans
    (breakAtExit_recedes p c.lock _)

theorem portExit_keepsBuffers (p : Port) (c : ExitCauses) (s : State) : KeepsBuffers s (portExit p c s) := by
  rw [portExit_eq]
  refine KeepsBuffers.trans ?_ (testFences_keepsBuffers _ _)
  exact ((exitBroken_recedes p c s).keeps.trans (answerSlotsAtExit_keepsBuffers p _)).trans (lookUpHead_recedes _).keeps

theorem failPort_keepsBuffers (p : Port) (c : FaultCause) (x : Option SlotId) (s : State) :
    KeepsBuffers s (failPort p c x s) := by
  rw [failPort_exits]
  exact (portExit_keepsBuffers p _ _).from_same (storeRecord_bufferPart _ _)

end Sys2Proof.Machine
end

section
/-! PROOFS. The laws of the buffers, kept by every command (R92 to R95, R104). Most commands touch neither a slot, a buffer, the
LRU list nor a queue. -/

namespace Sys2Proof.Machine

theorem raiseOnFirstRecord_bufferPart (s t : State) : bufferPart (raiseOnFirstRecord s t) = bufferPart t :=
  (raiseOnFirstRecord_frame s t).bufferPart

/-! ## Arrivals -/

theorem takeFreeAddress_bufferPart (words : List Word) (s : State) : bufferPart (takeFreeAddress words s) = bufferPart s := by
  unfold takeFreeAddress
  split <;> rfl

theorem spendCredit_bufferPart (c : CreditClass) (s : State) : bufferPart (spendCredit c s) = bufferPart s := by
  cases c <;> rfl

theorem arrivePosted_keepsBuffers (agent : BitVec 4) (length : Nat) (words : List Word) (data : List Byte) (s : State) :
    KeepsBuffers s (arrivePosted agent length words data s) := by
  unfold arrivePosted
  dsimp only
  split
  · exact .of_same (storeRecord_bufferPart _ s)
  · split
    · exact .of_same (storeRecord_bufferPart _ s)
    · split
      · exact .of_same (storeRecord_bufferPart _ s)
      · unfold joinPosted
        dsimp only
        split
        · exact (exitHeadsAndTest_keepsBuffers _).from_same rfl
        · exact .of_same rfl

theorem admitNonPosted_bufferPart (a : Agent) (t : Tag) (kind : UpKind) (body : NonPostedBody) (s : State) :
    bufferPart (admitNonPosted a t kind body s) = bufferPart s := by
  unfold admitNonPosted
  split
  · exact storeRecord_bufferPart _ s
  · split
    · exact storeRecord_bufferPart _ s
    · rfl

theorem accessArrives_bufferPart (k : SlotKind) (agent : BitVec 4) (tag : BitVec 6) (length : BitVec 9) (words : List Word)
    (data : List Byte) (s : State) : bufferPart (accessArrives k agent tag length words data s) = bufferPart s := by
  rw [accessArrives, takeFreeAddress_bufferPart, ← spendCredit_bufferPart .nonPosted s]
  unfold arriveAccess
  dsimp only
  split
  · split
    · exact storeRecord_bufferPart _ _
    · exact admitNonPosted_bufferPart _ _ _ _ _
  · exact storeRecord_bufferPart _ _

theorem arriveRelease_bufferPart (agent : BitVec 4) (tag : BitVec 6) (words : List Word) (data : List Byte) (s : State) :
    bufferPart (arriveRelease agent tag words data s) = bufferPart s := by
  unfold arriveRelease
  split
  · split
    · exact admitNonPosted_bufferPart _ _ _ _ s
    · exact storeRecord_bufferPart _ s
  · exact storeRecord_bufferPart _ s

theorem takeManagementHead_bufferPart (s : State) : bufferPart (takeManagementHead s) = bufferPart s := by
  unfold takeManagementHead
  split <;> rfl

theorem admitManagement_bufferPart (e : ManagementEntry) (s : State) : bufferPart (admitManagement e s) = bufferPart s := by
  unfold admitManagement
  split
  · exact storeRecord_bufferPart _ s
  · split
    · exact storeRecord_bufferPart _ s
    · unfold joinManagement
      dsimp only
      split
      · exact takeManagementHead_bufferPart _
      · rfl

theorem arriveManagement_bufferPart (agent : BitVec 4) (tag : BitVec 6) (operation : BitVec 4) (index : BitVec 7)
    (words : List Word) (data : List Byte) (s : State) :
    bufferPart (arriveManagement agent tag operation index words data s) = bufferPart s := by
  unfold arriveManagement
  split
  · split
    · exact storeRecord_bufferPart _ s
    · split
      · exact storeRecord_bufferPart _ s
      · exact admitManagement_bufferPart _ s
  · exact storeRecord_bufferPart _ s

theorem takeServiceDone_bufferPart (a : Agent) (v : VectorId) (s : State) :
    bufferPart (takeServiceDone a v s) = bufferPart s := by
  unfold takeServiceDone
  split
  · exact storeRecord_bufferPart _ s
  · exact storeRecord_bufferPart _ s
  · split
    · exact (endService_frame v a s).bufferPart
    · exact storeRecord_bufferPart _ s

theorem arriveServiceDone_bufferPart (agent : BitVec 4) (vector : BitVec 7) (words : List Word) (data : List Byte)
    (s : State) : bufferPart (arriveServiceDone agent vector words data s) = bufferPart s := by
  unfold arriveServiceDone
  split
  · split
    · exact takeServiceDone_bufferPart _ _ s
    · exact storeRecord_bufferPart _ s
  · exact storeRecord_bufferPart _ s

/-! ## The exit of the non-posted intake (R8, R96) -/

section Hits

variable {s : State} {b : BufferId} {data : List Byte}

theorem checkBuffer_hit_valid {r : DecodeRecord} (h : checkBuffer r s = .hit b data) : isValid (peek s.buffers b) = true := by
  unfold checkBuffer at h
  split at h
  · split at h
    · next hvalid =>
      cases h
      obtain ⟨hb, -⟩ := findValid_eq_some_iff.1 hvalid
      rw [hb]
      rfl
    · cases h
  · cases h

/-- R8 rows 5 to 7: only a read that is no exclusive one can hit. -/
theorem decodeAtPort_hit_valid {kind : AccessKind} {agent : Agent} {r : DecodeRecord}
    (h : decodeAtPort kind agent r s = .hit b data) : isValid (peek s.buffers b) = true := by
  unfold decodeAtPort at h
  split at h
  · cases h
  · exact checkBuffer_hit_valid h
  · cases h
  · unfold checkExclusiveRead at h
    repeat' split at h
    all_goals cases h
  · unfold checkExclusiveWrite at h
    repeat' split at h
    all_goals cases h

/-- R8 row 6: a decode that hits finds a VALID buffer. -/
theorem decode_hit_valid {kind : AccessKind} {agent : Agent} {a : Addr} {length : Nat}
    (h : decode kind agent a length s = .hit b data) : isValid (peek s.buffers b) = true := by
  unfold decode at h
  split at h
  · cases h
  · dsimp only at h
    split at h
    · cases h
    · split at h
      · split at h <;> cases h
      · split at h
        · exact decodeAtPort_hit_valid h
        · cases h

end Hits

theorem takeAccess_keepsBuffers {d : Decoded} {s : State} (e : NonPostedEntry) (k : SlotKind) (a : Addr) (n : Nat)
    (data : List Byte) (h : ∀ b block, d = .hit b block → isValid (peek s.buffers b) = true) :
    KeepsBuffers s (takeAccess e k a n data d s) := by
  have hanswer : ∀ st data t, bufferPart (answerNow e st data t) = bufferPart t := fun _ _ _ => rfl
  unfold takeAccess
  split
  · refine .of_same ((hanswer _ _ _).trans ?_)
    split
    · exact storeRecord_bufferPart _ s
    · rfl
  · exact .of_same ((hanswer _ _ _).trans (storeRecord_bufferPart _ s))
  · exact .of_same rfl
  · exact .of_same rfl
  · exact .of_same ((hanswer _ _ _).trans (storeRecord_bufferPart _ s))
  · exact .of_same rfl
  · exact (touchBuffer_keepsBuffers (h _ _ rfl)).trans (.of_same (hanswer _ _ _))
  · exact allocate_keepsBuffers e k data _ s

theorem takeRelease_keepsBuffers (e : NonPostedEntry) (s : State) : KeepsBuffers s (takeRelease e s) := by
  unfold takeRelease
  split
  · exact (openLock_keepsBuffers _ _).from_same rfl
  · split
    · exact .of_same rfl
    · exact (KeepsBuffers.of_same (storeRecord_bufferPart _ s)).trans (.of_same rfl)

theorem exitNonPosted_keepsBuffers (e : NonPostedEntry) (s : State) : KeepsBuffers s (exitNonPosted e s) := by
  unfold exitNonPosted
  dsimp only
  split
  · exact (takeRelease_keepsBuffers e _).from_same rfl
  · refine KeepsBuffers.from_same (takeAccess_keepsBuffers e _ _ _ _ fun b block hhit => ?_) rfl
    exact decode_hit_valid (s := s) hhit

/-! ## Messages from a target -/

theorem ifActive_keepsBuffers {act : State → State} {s : State} (p : Port) (h : KeepsBuffers s (act s)) :
    KeepsBuffers s (ifActive p act s) := by
  unfold ifActive
  split
  · exact h
  · exact .refl s

theorem takeReady_keepsBuffers (p : Port) (posted nonPosted : Nat) (s : State) :
    KeepsBuffers s (takeReady p posted nonPosted s) := by
  unfold takeReady
  dsimp only
  split
  · split
    · exact .of_same rfl
    · exact failPort_keepsBuffers p _ _ s
  · exact failPort_keepsBuffers p _ _ s
  · exact .refl s
  · exact .refl s

theorem takeCredit_keepsBuffers (p : Port) (lane : Lane) (count : Nat) (s : State) :
    KeepsBuffers s (takeCredit p lane count s) := by
  unfold takeCredit
  dsimp only
  split
  · split
    · exact failPort_keepsBuffers p _ _ s
    · exact .of_same rfl
  · split
    · exact failPort_keepsBuffers p _ _ s
    · exact .of_same rfl

theorem takeReceipt_keepsBuffers (p : Port) (seq : WriteSeq) (s : State) : KeepsBuffers s (takeReceipt p seq s) := by
  unfold takeReceipt
  split
  · split
    · exact retire_keepsBuffers p _ s
    · exact failPort_keepsBuffers p _ _ s
  · exact failPort_keepsBuffers p _ _ s

theorem takeInterrupt_bufferPart (p : Port) (vector : BitVec 7) (s : State) :
    bufferPart (takeInterrupt p vector s) = bufferPart s := by
  unfold takeInterrupt
  split
  · split
    · exact storeRecord_bufferPart _ s
    · exact (raiseVector_frame _ s).bufferPart
  · exact storeRecord_bufferPart _ s

/-! ## Completion pieces (R66 to R68, R73, R100) -/

theorem completeRead_keepsBuffers {i : SlotId} {u : SlotUse} {s : State} (hu : slotUse s i = some u) (block : List Byte) :
    KeepsBuffers s (completeRead i u block s) := by
  have halone : KeepsBuffers s (lockActs i u.port .done (answerSlot i .done block s)) :=
    (answerSlot_recedes i _ _ s).keeps.trans (lockActs_keepsBuffers i _ _ _)
  unfold completeRead
  split
  · next b hlink =>
    have hled : Leads (reply u .done (sliceOf block u.address u.length) s) i b := ⟨u, by rw [slotUse_reply, hu], hlink⟩
    exact (reply_recedes u _ _ s).keeps.trans (endFillDone_freeSlot_keepsBuffers hled block)
  · exact halone
  · exact halone

theorem takeReadPiece_keepsBuffers {i : SlotId} {u : SlotUse} {s : State} (hu : slotUse s i = some u) (p : Port)
    (offset count : Nat) (data : List Byte) : KeepsBuffers s (takeReadPiece p i u offset count data s) := by
  have hgrown : KeepsBuffers s (putUse i (some (grownUse u offset data)) s) :=
    (Recedes.setUse (v := grownUse u offset data) hu rfl).keeps
  unfold takeReadPiece
  split
  · exact failPort_keepsBuffers p _ _ s
  · dsimp only
    split
    · exact hgrown.trans (completeRead_keepsBuffers (slotUse_putUse_same i _ s) _)
    · exact hgrown

theorem takeWritePiece_keepsBuffers (p : Port) (i : SlotId) (u : SlotUse) (count : Nat) (data : List Byte) (s : State) :
    KeepsBuffers s (takeWritePiece p i u count data s) := by
  unfold takeWritePiece
  split
  · exact (answerSlot_recedes i _ _ s).keeps.trans (lockActs_keepsBuffers i _ _ _)
  · exact failPort_keepsBuffers p _ _ s

theorem takeMatchingPiece_keepsBuffers {i : SlotId} {u : SlotUse} {s : State} (hu : slotUse s i = some u) (p : Port)
    (status : PieceStatus) (offset count : Nat) (data : List Byte) :
    KeepsBuffers s (takeMatchingPiece p i u status offset count data s) := by
  unfold takeMatchingPiece
  split
  · exact ((freeSlot_recedes i s).trans (storeRecord_recedes _ _)).keeps
  · cases status with
    | fault => exact (failSlot_keepsBuffers i _ s).trans (lockActs_keepsBuffers i _ _ _)
    | good =>
      dsimp only
      split
      · exact takeReadPiece_keepsBuffers hu p _ _ _
      · exact takeReadPiece_keepsBuffers hu p _ _ _
      · exact takeWritePiece_keepsBuffers p i u _ _ s
      · exact takeWritePiece_keepsBuffers p i u _ _ s

theorem takePiece_keepsBuffers (p : Port) (tag : BitVec 8) (status : PieceStatus) (offset count : Nat) (data : List Byte)
    (s : State) : KeepsBuffers s (takePiece p tag status offset count data s) := by
  unfold takePiece
  split
  · exact failPort_keepsBuffers p _ _ s
  · split
    · exact .of_same (storeRecord_bufferPart _ s)
    · split
      · next u hu => exact takeMatchingPiece_keepsBuffers hu p _ _ _ _
      · exact .refl s

/-! ## Sends (R45, R63) -/

/-- R45: a send marks an entry and moves no address. -/
theorem markSent_addresses (seq : WriteSeq) (l : List QueueEntry) :
    (markSent seq l).map QueueEntry.address = l.map QueueEntry.address := by
  induction l with
  | nil => rfl
  | cons e l ih =>
    unfold markSent
    split
    · rfl
    · rw [List.map_cons, ih, List.map_cons]

theorem sendPosted_recedes (p : Port) (e : QueueEntry) (s : State) : Recedes s (sendPosted p e s) := by
  have hqueue : Recedes s { s with
      pwqs := poke s.pwqs p
        { entries := markSent (peek s.pwqs p).nextSeq (peek s.pwqs p).entries, nextSeq := (peek s.pwqs p).nextSeq + 1 } } := by
    refine .setQueue fun x hx => ?_
    have hmem := List.mem_map_of_mem (f := QueueEntry.address) hx
    rw [markSent_addresses] at hmem
    exact List.mem_map.1 hmem
  exact hqueue.trans (.of_same rfl)

theorem sendNonPosted_recedes {i : SlotId} {u : SlotUse} {s : State} (hu : slotUse s i = some u) (p : Port) :
    Recedes s (sendNonPosted p i u s) :=
  (Recedes.setUse (v := { u with state := .sent }) hu rfl).trans (.of_same rfl)

/-! ## Timers (R71, R72) -/

/-- R72: an ORPHANED slot leads nothing. -/
theorem orphanSlot_keepsBuffers {i : SlotId} {u : SlotUse} {s : State} (hu : slotUse s i = some u) :
    KeepsBuffers s (orphanSlot i u s) := by
  unfold orphanSlot
  refine endLedFill_keepsBuffers hu ⟨(reply_frame u _ _ s).trans (putUse_frame i _ _), fun j c hl => ?_⟩ .expired
  obtain ⟨-, w, hw, hlink⟩ | ⟨hji, hl⟩ := hl.of_putUse
  · cases hw
    cases hlink
  · exact ⟨(reply_recedes u _ _ s).leads j c hl, hji⟩

theorem expireSlot_keepsBuffers {i : SlotId} {u : SlotUse} {s : State} (hu : slotUse s i = some u) :
    KeepsBuffers s (expireSlot i u s) := by
  unfold expireSlot
  refine KeepsBuffers.trans ?_ (lockActs_keepsBuffers i _ _ _)
  refine KeepsBuffers.from_same ?_ (storeRecord_bufferPart (.completionExpired u.agent u.tag u.port i u.state) s)
  split
  · exact orphanSlot_keepsBuffers (by rw [slotUse, storeRecord_slots]; exact hu)
  · exact (leaveLists_recedes i u _).keeps.trans (failSlot_keepsBuffers i _ _)

theorem endDrainIfDone_bufferPart (s : State) : bufferPart (endDrainIfDone s) = bufferPart s := by
  unfold endDrainIfDone endDrain copyActiveBank
  dsimp only
  repeat' split
  all_goals rfl

/-! ## Management -/

theorem endRequest_keepsBuffers {r : ManagementEntry} {rule : ManagementEntry → State → Answer}
    (h : ∀ s, KeepsBuffers s (rule r s).after) (s : State) : KeepsBuffers s (endRequest r rule s) := by
  have hanswer : KeepsBuffers s (answerRequest r rule { s with current := none }).after := by
    unfold answerRequest
    split
    · exact .of_same rfl
    · split
      · exact .of_same (storeRecord_bufferPart _ _)
      · split
        · exact .of_same rfl
        · exact (h _).from_same rfl
  exact (hanswer.trans (.of_same (raiseOnFirstRecord_bufferPart s _))).trans (.of_same rfl)

theorem readRegisterRule_bufferPart (r : ManagementEntry) (s : State) :
    bufferPart (readRegisterRule r s).after = bufferPart s := by
  unfold readRegisterRule
  split <;> rfl

theorem readErrorStatusRule_bufferPart (r : ManagementEntry) (s : State) :
    bufferPart (readErrorStatusRule r s).after = bufferPart s := by
  unfold readErrorStatusRule
  split <;> rfl

theorem writeMaskRule_bufferPart (r : ManagementEntry) (s : State) :
    bufferPart (writeMaskRule r s).after = bufferPart s := by
  unfold writeMaskRule
  dsimp only
  split <;> rfl

theorem writeTimeoutRule_bufferPart (r : ManagementEntry) (s : State) :
    bufferPart (writeTimeoutRule r s).after = bufferPart s := by
  unfold writeTimeoutRule
  dsimp only
  split <;> rfl

theorem writeHoldRule_bufferPart (r : ManagementEntry) (s : State) :
    bufferPart (writeHoldRule r s).after = bufferPart s := by
  unfold writeHoldRule
  dsimp only
  split <;> rfl

theorem writeMasksRule_bufferPart (r : ManagementEntry) (s : State) :
    bufferPart (writeMasksRule r s).after = bufferPart s := by
  rw [writeMasksRule, answerDone_after, (resteer_frame _).bufferPart]
  rfl

theorem stageWindowRule_bufferPart (r : ManagementEntry) (s : State) :
    bufferPart (stageWindowRule r s).after = bufferPart s := by
  unfold stageWindowRule
  split
  · rfl
  · split
    · split
      · rfl
      · unfold stageEntry
        cases s.activeBank <;> rfl
    · rfl

theorem readWindowRule_bufferPart (r : ManagementEntry) (s : State) :
    bufferPart (readWindowRule r s).after = bufferPart s := by
  unfold readWindowRule
  split <;> rfl

theorem writeVectorRule_bufferPart (r : ManagementEntry) (s : State) :
    bufferPart (writeVectorRule r s).after = bufferPart s := by
  unfold writeVectorRule
  dsimp only
  split
  · rfl
  · rw [answerDone_after, (resteer_frame _).bufferPart]
    rfl

theorem takeRecordRule_bufferPart (r : ManagementEntry) (s : State) :
    bufferPart (takeRecordRule r s).after = bufferPart s := by
  unfold takeRecordRule
  split <;> rfl

/-- R127: a port that enters Waiting keeps what its queue holds. -/
theorem enterWaiting_recedes (p : Port) (s : State) : Recedes s (enterWaiting p s) := by
  have hqueue : Recedes s { s with pwqs := poke s.pwqs p { peek s.pwqs p with nextSeq := 0 } } :=
    .setQueue fun x hx => ⟨x, hx, rfl⟩
  exact hqueue.trans (.of_same rfl)

theorem portControlRule_keepsBuffers (r : ManagementEntry) (s : State) : KeepsBuffers s (portControlRule r s).after := by
  unfold portControlRule
  split
  · exact .refl s
  · split
    · unfold enableRule
      split
      · exact (enterWaiting_recedes _ s).keeps
      · exact .refl s
    · split
      · unfold disableRule
        split
        · exact .refl s
        · exact (portExit_keepsBuffers _ _ _).from_same rfl
      · split
        · unfold restartRule
          split
          · exact (enterWaiting_recedes _ s).keeps
          · exact .refl s
        · exact .refl s

/-- R16, R105: an accepted commit withdraws every buffer before the heads leave. -/
theorem commitAccepted_keepsBuffers (r : ManagementEntry) (s : State) : KeepsBuffers s (commitAccepted r s) := by
  have hswap : KeepsBuffers s (swapBanks { s with current := none }) :=
    ((withdrawAll_recedes _).keeps.trans (exitHeadsAndTest_keepsBuffers _)).from_same rfl
  have haccept : KeepsBuffers s (acceptCommit r { s with current := none }) := hswap.trans (.of_same rfl)
  exact haccept.trans (.of_same ((endDrainIfDone_bufferPart _).trans (raiseOnFirstRecord_bufferPart s _)))

/-! ## Resets (R75, R107) -/

theorem resetLocks_recedes (s : State) : Recedes s (resetLocks s) := by
  unfold resetLocks
  exact (Recedes.fold _ (fun s p => breakLock_recedes p _ s) allPorts s).trans (.of_same rfl)

/-- R75: a slot that a reset frees gives up the buffer it leads. -/
theorem dropSlot_keepsBuffers {i : SlotId} {u : SlotUse} {s : State} (hu : slotUse s i = some u) :
    KeepsBuffers s (dropSlot i u s) := by
  unfold dropSlot
  split
  · next b hlink =>
    have hframe := freeSlot_frame i (putBuffer b .free s)
    have hfreed := released_of_frees hframe (freeSlot_recedes i _).leads (freeSlot_frees i _)
    exact FillEnds.abandoned (i := i) (b := b) ⟨⟨u, hu, hlink⟩, hframe.buffers, hframe.pwqs, hfreed.leads⟩ hframe.lru
  · exact (freeSlot_recedes i s).keeps
  · exact (freeSlot_recedes i s).keeps

theorem resetSlot_keepsBuffers (i : SlotId) (s : State) : KeepsBuffers s (resetSlot i s) := by
  unfold resetSlot
  split
  · exact .refl s
  · next u hu =>
    have hmuted : KeepsBuffers s (putUse i (some { u with mute := true }) s) :=
      (Recedes.setUse (v := { u with mute := true }) hu rfl).keeps
    split
    · exact dropSlot_keepsBuffers hu
    · exact dropSlot_keepsBuffers hu
    · exact dropSlot_keepsBuffers hu
    · exact dropSlot_keepsBuffers hu
    · exact hmuted
    · exact hmuted
    · exact .refl s

/-- R107: a buffer that loses its followers keeps its state, key and leader. -/
theorem dropFollowers_recedes (s : State) : Recedes s { s with buffers := s.buffers.map dropFollowers } := by
  refine .setBuffers (fun b => ?_) fun b => ?_
  · rw [peek_map]
    cases peek s.buffers b with
    | filling k l fs => exact wanes_filling k l fs []
    | stale k l fs => exact wanes_stale k l fs []
    | free => exact .refl _
    | valid k block => exact .refl _
  · rw [peek_map]
    cases peek s.buffers b <;> rfl

theorem resetTracker_keepsBuffers (s : State) : KeepsBuffers s (resetTracker s) := by
  unfold resetTracker
  refine (KeepsBuffers.fold _ (fun s i => resetSlot_keepsBuffers i s) allSlots s).trans ?_
  generalize allSlots.foldl (fun s i => resetSlot i s) s = t
  refine (dropFollowers_recedes t).keeps.trans ?_
  exact .of_same rfl

theorem resetSteering_bufferPart (first : Bool) (s : State) : bufferPart (resetSteering first s) = bufferPart s := by
  unfold resetSteering
  dsimp only
  rw [(resteer_frame _).bufferPart]
  split
  · unfold pendVectorZero
    split <;> rfl
  · rfl

theorem upstreamReset_keepsBuffers (s : State) : KeepsBuffers s (upstreamReset s) := by
  unfold upstreamReset
  refine KeepsBuffers.trans ?_ (.of_same (resetSteering_bufferPart _ _))
  refine KeepsBuffers.trans ?_ (resetTracker_keepsBuffers _)
  refine KeepsBuffers.trans ?_ (resetLocks_recedes _).keeps
  exact (KeepsBuffers.of_same (storeRecord_bufferPart _ _)).from_same rfl

/-- After a cold reset no buffer is live, the LRU list is empty and no slot leads. -/
theorem reset_keepsBuffers (s : State) (pending : List Instr) (freeReads : Nat) :
    KeepsBuffers s { State.reset with pending := pending, freeReads := freeReads } :=
  ⟨fun _ _ => ⟨fun b _ k h => absurd h (reset_liveKey b k), fun b k h => absurd h (reset_liveKey b k)⟩,
    fun _ => reset_lruExact⟩

/-! ## Every command -/

/-- A command's outcome keeps the laws of the buffers. -/
def OutcomeKeepsBuffers (s : State) (o : Host.Outcome State Fault Refusal) : Prop := ∀ t, o = .next t → KeepsBuffers s t

namespace OutcomeKeepsBuffers

theorem next {s t : State} (h : KeepsBuffers s t) : OutcomeKeepsBuffers s (.next t) := by
  intro t' e
  cases e
  exact h

theorem event {act : State → State} {s : State} (h : KeepsBuffers s (act s)) : OutcomeKeepsBuffers s (event act s) :=
  next (h.trans (.of_same (raiseOnFirstRecord_bufferPart s _)))

/-- A command that touches no slot, no buffer, not the LRU list and no queue. -/
theorem quiet {act : State → State} {s : State} (h : bufferPart (act s) = bufferPart s) :
    OutcomeKeepsBuffers s (Machine.event act s) := event (.of_same h)

/-- The execution end of a request. -/
theorem executionEnd {named : ManagementEntry → Bool} {rule : ManagementEntry → State → Answer}
    (h : ∀ r s, KeepsBuffers s (rule r s).after) (s : State) : OutcomeKeepsBuffers s (executionEnd named rule s) := by
  unfold Machine.executionEnd
  split
  · split
    · exact next (endRequest_keepsBuffers (h _) s)
    · exact next (.refl s)
  · exact next (.refl s)

/-- The execution end of a request whose operation is as quiet. -/
theorem quietEnd {named : ManagementEntry → Bool} {rule : ManagementEntry → State → Answer}
    (h : ∀ r s, bufferPart (rule r s).after = bufferPart s) (s : State) :
    OutcomeKeepsBuffers s (Machine.executionEnd named rule s) := executionEnd (fun r s => .of_same (h r s)) s

end OutcomeKeepsBuffers

theorem execPostedWrite_keepsBuffers (agent : BitVec 4) (length : BitVec 9) (words : List Word) (data : List Byte)
    (s : State) : OutcomeKeepsBuffers s (execPostedWrite agent length words data s) := by
  refine .event (KeepsBuffers.trans ?_ (.of_same (takeFreeAddress_bufferPart words _)))
  exact (arrivePosted_keepsBuffers agent _ words data _).from_same (spendCredit_bufferPart .posted s)

theorem execNonPostedIntakeExit_keepsBuffers (s : State) : OutcomeKeepsBuffers s (execNonPostedIntakeExit s) := by
  unfold execNonPostedIntakeExit
  split
  · exact .event (exitNonPosted_keepsBuffers _ s)
  · exact .next (.refl s)

theorem execPostedWriteSend_keepsBuffers (p : Port) (s : State) : OutcomeKeepsBuffers s (execPostedWriteSend p s) := by
  unfold execPostedWriteSend
  split
  · exact .next (sendPosted_recedes p _ s).keeps
  · exact .next (.refl s)

theorem execNonPostedSend_keepsBuffers (p : Port) (s : State) : OutcomeKeepsBuffers s (execNonPostedSend p s) := by
  unfold execNonPostedSend
  split
  · split
    · next u hu => exact .next (sendNonPosted_recedes hu p).keeps
    · exact .next (.refl s)
  · exact .next (.refl s)

theorem execPortLinkFault_keepsBuffers (p : Port) (s : State) : OutcomeKeepsBuffers s (execPortLinkFault p s) := by
  refine .event ?_
  split
  · exact failPort_keepsBuffers p _ none s
  · exact .refl s

theorem execCompletionTimerExpiry_keepsBuffers (i : SlotId) (s : State) :
    OutcomeKeepsBuffers s (execCompletionTimerExpiry i s) := by
  unfold execCompletionTimerExpiry
  split
  · next u hu =>
    split
    · exact .event (expireSlot_keepsBuffers hu)
    · exact .next (.refl s)
  · exact .next (.refl s)

theorem execOrphanTimerExpiry_keepsBuffers (i : SlotId) (s : State) :
    OutcomeKeepsBuffers s (execOrphanTimerExpiry i s) := by
  unfold execOrphanTimerExpiry
  split
  · split
    · exact .event ((freeSlot_recedes i s).trans (storeRecord_recedes _ _)).keeps
    · exact .next (.refl s)
  · exact .next (.refl s)

theorem execHoldTimerExpiry_keepsBuffers (p : Port) (s : State) : OutcomeKeepsBuffers s (execHoldTimerExpiry p s) := by
  unfold execHoldTimerExpiry
  split
  · split
    · exact .event ((breakLock_recedes p _ s).keeps.trans (openLock_keepsBuffers p _))
    · exact .next (.refl s)
  · exact .next (.refl s)
  · exact .next (.refl s)

theorem execCommitWindows_keepsBuffers (s : State) : OutcomeKeepsBuffers s (execCommitWindows s) := by
  unfold execCommitWindows
  split
  · split
    · exact .next (commitAccepted_keepsBuffers _ s)
    · exact .quietEnd (fun _ _ => rfl) s
  · exact .next (.refl s)

theorem execEgressTransmission_keepsBuffers (s : State) : OutcomeKeepsBuffers s (execEgressTransmission s) := by
  unfold execEgressTransmission
  split
  · exact .next (.refl s)
  · exact .next (.of_same rfl)

theorem exec_keepsBuffers (c : Instr) (s : State) : OutcomeKeepsBuffers s (exec c s) := by
  cases c with
  | coldReset => exact .next (reset_keepsBuffers s _ _)
  | upstreamLinkReset => exact .next (upstreamReset_keepsBuffers s)
  | postedWrite agent length words data => exact execPostedWrite_keepsBuffers agent length words data s
  | read agent tag length words data => exact .quiet (accessArrives_bufferPart .read agent tag length words data s)
  | nonPostedWrite agent tag length words data =>
    exact .quiet (accessArrives_bufferPart .nonPostedWrite agent tag length words data s)
  | exclusiveRead agent tag length words data =>
    exact .quiet (accessArrives_bufferPart .exclusiveRead agent tag length words data s)
  | exclusiveWrite agent tag length words data =>
    exact .quiet (accessArrives_bufferPart .exclusiveWrite agent tag length words data s)
  | exclusiveRelease agent tag words data =>
    exact .quiet (act := fun s => arriveRelease agent tag words data (spendCredit .nonPosted s))
      ((arriveRelease_bufferPart agent tag words data _).trans (spendCredit_bufferPart .nonPosted s))
  | managementRequest agent tag operation index words data =>
    exact .quiet (act := fun s => arriveManagement agent tag operation index words data (spendCredit .management s))
      ((arriveManagement_bufferPart agent tag operation index words data _).trans (spendCredit_bufferPart .management s))
  | serviceDone agent vector words data => exact .quiet (arriveServiceDone_bufferPart agent vector words data s)
  | unknownKindPacket kind agent => exact .quiet (storeRecord_bufferPart _ s)
  | postedIntakeExit => exact .event (exitHeadsAndTest_keepsBuffers s)
  | nonPostedIntakeExit => exact execNonPostedIntakeExit_keepsBuffers s
  | postedWriteSend port => exact execPostedWriteSend_keepsBuffers port s
  | nonPostedSend port => exact execNonPostedSend_keepsBuffers port s
  | readyMessage port postedGrant nonPostedGrant => exact .event (takeReady_keepsBuffers port _ _ s)
  | creditReturn port lane count => exact .event (ifActive_keepsBuffers port (takeCredit_keepsBuffers port lane _ s))
  | receipt port seq => exact .event (ifActive_keepsBuffers port (takeReceipt_keepsBuffers port seq s))
  | completionPiece port tag status offset count data =>
    exact .event (ifActive_keepsBuffers port (takePiece_keepsBuffers port tag status _ _ data s))
  | interruptMessage port vector =>
    exact .event (ifActive_keepsBuffers port (.of_same (takeInterrupt_bufferPart port vector s)))
  | malformedMessage port => exact .event (ifActive_keepsBuffers port (failPort_keepsBuffers port _ none s))
  | portLinkFault port => exact execPortLinkFault_keepsBuffers port s
  | completionTimerExpiry slot => exact execCompletionTimerExpiry_keepsBuffers slot s
  | orphanTimerExpiry slot => exact execOrphanTimerExpiry_keepsBuffers slot s
  | holdTimerExpiry port => exact execHoldTimerExpiry_keepsBuffers port s
  | commitDrainEnd => exact .next (.of_same (endDrainIfDone_bufferPart s))
  | managementTake => exact .next (.of_same (takeManagementHead_bufferPart s))
  | undefinedOperation => exact .quietEnd (fun _ _ => rfl) s
  | readRegister => exact .quietEnd readRegisterRule_bufferPart s
  | readErrorQueueStatus => exact .quietEnd readErrorStatusRule_bufferPart s
  | writeRegister => exact .quietEnd (fun _ _ => rfl) s
  | writeManagementAgentMask => exact .quietEnd writeMaskRule_bufferPart s
  | writeMissPolicy => exact .quietEnd (fun _ _ => rfl) s
  | writeCompletionTimeout => exact .quietEnd writeTimeoutRule_bufferPart s
  | writeExclusiveHoldLimit => exact .quietEnd writeHoldRule_bufferPart s
  | writeAgentInterruptMasks => exact .quietEnd writeMasksRule_bufferPart s
  | stageWindow => exact .quietEnd stageWindowRule_bufferPart s
  | readWindow => exact .quietEnd readWindowRule_bufferPart s
  | commitWindows => exact execCommitWindows_keepsBuffers s
  | portControlEnable => exact .executionEnd portControlRule_keepsBuffers s
  | portControlDisable => exact .executionEnd portControlRule_keepsBuffers s
  | portControlRestart => exact .executionEnd portControlRule_keepsBuffers s
  | writeVector => exact .quietEnd writeVectorRule_bufferPart s
  | readVector => exact .quietEnd (fun _ _ => rfl) s
  | takeErrorRecord => exact .quietEnd takeRecordRule_bufferPart s
  | bridgeTimeAdvance => exact .next (.of_same rfl)
  | egressTransmission => exact execEgressTransmission_keepsBuffers s

/-- The command a step takes runs on a state that differs from the one before in the queue of commands alone. -/
theorem step_keepsBuffers {s t : State} (hstep : step s = .next t) : KeepsBuffers s t := by
  unfold step at hstep
  split at hstep
  · cases hstep
    exact .refl s
  · next c rest _ => exact (exec_keepsBuffers c _ t hstep).from_same rfl

/-- Settles O57. -/
theorem buffersStayFresh : Obligations.BuffersStayFresh := by
  unfold Obligations.BuffersStayFresh
  exact fun s t hkeys hfresh hstep => (step_keepsBuffers hstep).fresh hkeys hfresh

/-- Settles O58. -/
theorem lruExactKept : Obligations.LruExactKept := by
  unfold Obligations.LruExactKept
  exact fun s t hlru hstep => (step_keepsBuffers hstep).lru hlru

end Sys2Proof.Machine
end

section
/-! PROOFS. The arrivals of non-posted and management requests and the settings' operations: all they may change, said once by a
frame, as Laws/Frame.lean says it of the shared operations. No lane, slot, buffer, lock, port or vector is among it. -/

namespace Sys2Proof.Machine

/-- Only what the arrival of a request that waits, an error record and an operation on windows, settings or records may change. -/
def UpstreamFrame (s t : State) : Prop :=
  t = { s with
    bankA := t.bankA
    bankB := t.bankB
    missRecords := t.missRecords
    ids := t.ids
    arrivalCounter := t.arrivalCounter
    nonPostedIntake := t.nonPostedIntake
    managementIntake := t.managementIntake
    agentCredits := t.agentCredits
    egress := t.egress
    timeout := t.timeout
    holdLimit := t.holdLimit
    current := t.current
    managementMask := t.managementMask
    records := t.records
    overflow := t.overflow
    freeReads := t.freeReads
  }

theorem UpstreamFrame.trans {a b c : State} (h : UpstreamFrame a b) (k : UpstreamFrame b c) : UpstreamFrame a c :=
  Eq.trans k (congrArg (fun x : State => { x with
    bankA := c.bankA, bankB := c.bankB, missRecords := c.missRecords, ids := c.ids, arrivalCounter := c.arrivalCounter,
    nonPostedIntake := c.nonPostedIntake, managementIntake := c.managementIntake, agentCredits := c.agentCredits,
    egress := c.egress, timeout := c.timeout, holdLimit := c.holdLimit, current := c.current,
    managementMask := c.managementMask, records := c.records, overflow := c.overflow, freeReads := c.freeReads }) h)

theorem storeRecord_upstreamFrame (x : RecordBody) (s : State) : UpstreamFrame s (storeRecord x s) := by
  unfold storeRecord
  split <;> rfl

/-! ## Arrivals (R22, R161) -/

theorem takeFreeAddress_frame (words : List Word) (s : State) : UpstreamFrame s (takeFreeAddress words s) := by
  unfold takeFreeAddress
  split <;> rfl

theorem spendCredit_frame (c : CreditClass) (s : State) : UpstreamFrame s (spendCredit c s) := by
  cases c <;> rfl

theorem admitNonPosted_frame (a : Agent) (t : Tag) (kind : UpKind) (body : NonPostedBody) (s : State) :
    UpstreamFrame s (admitNonPosted a t kind body s) := by
  unfold admitNonPosted
  split
  · exact storeRecord_upstreamFrame _ s
  · split
    · exact storeRecord_upstreamFrame _ s
    · rfl

theorem accessArrives_frame (k : SlotKind) (agent : BitVec 4) (tag : BitVec 6) (length : BitVec 9) (words : List Word)
    (data : List Byte) (s : State) : UpstreamFrame s (accessArrives k agent tag length words data s) := by
  refine (spendCredit_frame .nonPosted s).trans (UpstreamFrame.trans ?_ (takeFreeAddress_frame words _))
  unfold arriveAccess
  dsimp only
  split
  · split
    · exact storeRecord_upstreamFrame _ _
    · exact admitNonPosted_frame _ _ _ _ _
  · exact storeRecord_upstreamFrame _ _

theorem arriveRelease_frame (agent : BitVec 4) (tag : BitVec 6) (words : List Word) (data : List Byte) (s : State) :
    UpstreamFrame s (arriveRelease agent tag words data s) := by
  unfold arriveRelease
  split
  · split
    · exact admitNonPosted_frame _ _ _ _ s
    · exact storeRecord_upstreamFrame _ s
  · exact storeRecord_upstreamFrame _ s

theorem takeManagementHead_frame (s : State) : UpstreamFrame s (takeManagementHead s) := by
  unfold takeManagementHead
  split <;> rfl

theorem admitManagement_frame (e : ManagementEntry) (s : State) : UpstreamFrame s (admitManagement e s) := by
  unfold admitManagement
  split
  · exact storeRecord_upstreamFrame _ s
  · split
    · exact storeRecord_upstreamFrame _ s
    · unfold joinManagement
      dsimp only
      split
      · refine UpstreamFrame.trans ?_ (takeManagementHead_frame _)
        exact rfl
      · rfl

theorem arriveManagement_frame (agent : BitVec 4) (tag : BitVec 6) (operation : BitVec 4) (index : BitVec 7)
    (words : List Word) (data : List Byte) (s : State) :
    UpstreamFrame s (arriveManagement agent tag operation index words data s) := by
  unfold arriveManagement
  split
  · split
    · exact storeRecord_upstreamFrame _ s
    · split
      · exact storeRecord_upstreamFrame _ s
      · exact admitManagement_frame _ s
  · exact storeRecord_upstreamFrame _ s

/-! ## Operations on registers, windows and records (R14, R15, R167 to R170, R173) -/

theorem readRegisterRule_frame (r : ManagementEntry) (s : State) : UpstreamFrame s (readRegisterRule r s).after := by
  unfold readRegisterRule
  split <;> rfl

theorem readErrorStatusRule_frame (r : ManagementEntry) (s : State) : UpstreamFrame s (readErrorStatusRule r s).after := by
  unfold readErrorStatusRule
  split <;> rfl

theorem writeMaskRule_frame (r : ManagementEntry) (s : State) : UpstreamFrame s (writeMaskRule r s).after := by
  unfold writeMaskRule
  dsimp only
  split <;> rfl

theorem writeTimeoutRule_frame (r : ManagementEntry) (s : State) : UpstreamFrame s (writeTimeoutRule r s).after := by
  unfold writeTimeoutRule
  dsimp only
  split <;> rfl

theorem writeHoldRule_frame (r : ManagementEntry) (s : State) : UpstreamFrame s (writeHoldRule r s).after := by
  unfold writeHoldRule
  dsimp only
  split <;> rfl

theorem readWindowRule_frame (r : ManagementEntry) (s : State) : UpstreamFrame s (readWindowRule r s).after := by
  unfold readWindowRule
  split <;> rfl

theorem takeRecordRule_frame (r : ManagementEntry) (s : State) : UpstreamFrame s (takeRecordRule r s).after := by
  unfold takeRecordRule
  split <;> rfl

theorem stageEntry_frame (i : WindowId) (w : WindowEntry) (s : State) : UpstreamFrame s (stageEntry i w s) := by
  unfold stageEntry
  split <;> rfl

theorem stageWindowRule_frame (r : ManagementEntry) (s : State) : UpstreamFrame s (stageWindowRule r s).after := by
  unfold stageWindowRule
  split
  · rfl
  · split
    · split
      · rfl
      · exact stageEntry_frame _ _ s
    · rfl

end Sys2Proof.Machine
end

section
/-! PROOFS. R109 through the shared operations: a lock leaves the Open state only by a claim, which needs its port in service
(R112, R118), and a port leaves service only in an exit, which breaks its lock (R120, R138). -/

namespace Sys2Proof.Machine

/-- If every lock in one state is Open or its port in service, so it is in the other. -/
def KeepsLocks (s t : State) : Prop := LocksInService s → LocksInService t

/-- What the law is read from. -/
def lockPart (s : State) : Vector Lock 4 × Vector PortRecord 4 := (s.locks, s.ports)

namespace KeepsLocks

theorem refl (s : State) : KeepsLocks s s := id

theorem trans {a b c : State} (h : KeepsLocks a b) (k : KeepsLocks b c) : KeepsLocks a c := k ∘ h

theorem fold {α : Type} (f : State → α → State) (h : ∀ s x, KeepsLocks s (f s x)) (l : List α) (s : State) :
    KeepsLocks s (l.foldl f s) := fold_keeps KeepsLocks.refl KeepsLocks.trans f h l s

theorem of_same {s t : State} (h : lockPart t = lockPart s) : KeepsLocks s t := by
  obtain ⟨hlocks, hports⟩ := Prod.mk.inj h
  intro hs p hp
  rw [hlocks] at hp
  rw [portInService_congr hports]
  exact hs p hp

/-- An operation that keeps the law, run on a state with the same locks and port records. -/
theorem from_same {s t u : State} (k : KeepsLocks t u) (h : lockPart t = lockPart s) : KeepsLocks s u := (of_same h).trans k

/-- A lock that changes: it opens, or was not Open before, or its port is in service. -/
theorem putLock {p : Port} {l : Lock} {s : State}
    (h : l = .opened ∨ peek s.locks p ≠ .opened ∨ portInService p s = true) : KeepsLocks s (putLock p l s) := by
  intro hs q hq
  rw [portInService_congr (putLock_ports p l s)]
  rw [putLock_locks, peek_poke] at hq
  split at hq
  · next hpq =>
    subst hpq
    obtain hopen | hlocked | hservice := h
    · exact absurd hopen hq
    · exact hs p hlocked
    · exact hservice
  · exact hs q hq

/-- A port record that changes, and leaves the port in service or keeps its state. -/
theorem putPort {p : Port} {r : PortRecord} {s : State}
    (h : r.state = .waiting ∨ r.state = .active ∨ r.state = (peek s.ports p).state) : KeepsLocks s (putPort p r s) := by
  intro hs q hq
  have hq' := hs q hq
  rw [portInService_putPort]
  split
  · next hpq =>
    subst hpq
    rw [portInService_iff] at hq'
    obtain hwaiting | hactive | hstate := h
    · simp [hwaiting]
    · simp [hactive]
    · simpa [hstate] using hq'
  · exact hq'

end KeepsLocks

/-! ## Frames -/

theorem TrackerFrame.lockPart {s t : State} (h : TrackerFrame s t) : lockPart t = lockPart s := by
  rw [Machine.lockPart, Machine.lockPart, h.locks, h.ports]

theorem FreeFrame.lockPart {s t : State} (h : FreeFrame s t) : lockPart t = lockPart s := h.toTracker.lockPart

theorem PostedFrame.lockPart {s t : State} (h : PostedFrame s t) : lockPart t = lockPart s := by
  rw [Machine.lockPart, Machine.lockPart, h.locks, h.ports]

theorem ServiceFrame.lockPart {s t : State} (h : ServiceFrame s t) : lockPart t = lockPart s := by
  rw [Machine.lockPart, Machine.lockPart, h.locks, h.ports]

theorem storeRecord_lockPart (x : RecordBody) (s : State) : lockPart (storeRecord x s) = lockPart s :=
  (storeRecord_frame x s).lockPart

theorem raiseOnFirstRecord_lockPart (s t : State) : lockPart (raiseOnFirstRecord s t) = lockPart t :=
  (raiseOnFirstRecord_frame s t).lockPart

theorem leaveLists_lockPart (i : SlotId) (u : SlotUse) (s : State) : lockPart (leaveLists i u s) = lockPart s := by
  rw [lockPart, lockPart, leaveLists_locks, (leaveLists_frame i u s).ports]

/-! ## Claims and the opening of a lock (R112, R113, R118) -/

theorem claimLock_keepsLocks {p : Port} {s : State} (h : portInService p s = true) (i : SlotId) (u : SlotUse) :
    KeepsLocks s (claimLock p i u s) := by
  have hmove : ∀ t j, KeepsLocks t (moveToLockWait j t) := fun t j => .of_same (by
    rw [lockPart, lockPart, moveToLockWait_locks, (moveToLockWait_frame j t).ports])
  unfold claimLock
  exact (KeepsLocks.putLock (.inr (.inr h))).trans (.fold _ hmove _ _)

theorem releaseFromWaiting_keepsLocks (p : Port) (i : SlotId) (s : State) : KeepsLocks s (releaseFromWaiting p i s) :=
  (KeepsLocks.of_same (meetFence_frame i _).lockPart).from_same rfl

theorem claimFromWaiting_keepsLocks {p : Port} {s : State} (h : portInService p s = true) (i : SlotId) (u : SlotUse) :
    KeepsLocks s (claimFromWaiting p i u s) := by
  have hclaim := claimLock_keepsLocks (s := { s with waiting := poke s.waiting p (without i (peek s.waiting p)) }) h i u
  exact (hclaim.trans (.of_same (meetFence_frame i _).lockPart)).from_same rfl

/-- R118: an exclusive read claims the lock only while the port is in service. -/
theorem processOrder_keepsLocks {reopen : State → State} (h : ∀ s, KeepsLocks s (reopen s)) (p : Port) (l : List SlotId) :
    ∀ s, KeepsLocks s (processOrder reopen p l s) := by
  induction l with
  | nil => exact .refl
  | cons i rest ih =>
    intro s
    unfold processOrder
    split
    · exact ih s
    · split
      · next hclaims =>
        have hclaim := claimFromWaiting_keepsLocks hclaims.2 i
        dsimp only
        split
        · exact (hclaim _).trans (h _)
        · exact (hclaim _).trans (.fold _ (fun s j => releaseFromWaiting_keepsLocks p j s) _ _)
      · exact (releaseFromWaiting_keepsLocks p i s).trans (ih _)

theorem openLockWithin_keepsLocks (n : Nat) (p : Port) : ∀ s, KeepsLocks s (openLockWithin n p s) := by
  induction n with
  | zero => exact fun s => .putLock (.inl rfl)
  | succ n ih => exact fun s => (KeepsLocks.putLock (.inl rfl)).trans (processOrder_keepsLocks ih p _ _)

theorem openLock_keepsLocks (p : Port) (s : State) : KeepsLocks s (openLock p s) := openLockWithin_keepsLocks 64 p s

/-- R113: a lock becomes Held only where it was Claimed. -/
theorem lockActs_keepsLocks (i : SlotId) (p : Port) (st : Status) (s : State) : KeepsLocks s (lockActs i p st s) := by
  unfold lockActs
  split
  · next hclaimed =>
    split
    · split
      · exact .putLock (.inr (.inl (by rw [hclaimed]; exact nofun)))
      · exact openLock_keepsLocks p s
    · exact .refl s
  · exact .refl s
  · exact .refl s

theorem breakLock_keepsLocks (p : Port) (c : BreakCause) (s : State) : KeepsLocks s (breakLock p c s) := by
  have hopen : KeepsLocks s (putLock p .opened s) := .putLock (.inl rfl)
  refine hopen.trans (.of_same ?_)
  rw [lockPart, breakLock_locks, (breakLock_frame p c s).ports]
  rfl

/-! ## Fences and allocation (R57, R58, R83) -/

theorem takeTurn_keepsLocks (i : SlotId) (s : State) : KeepsLocks s (takeTurn i s) := by
  have hready : KeepsLocks s (readyPoint i s) := .of_same (readyPoint_frame i s).lockPart
  unfold takeTurn
  split
  · exact .refl s
  · split
    · split
      · exact hready.trans (lockActs_keepsLocks i _ _ _)
      · exact hready
    · exact .refl s

theorem testFences_keepsLocks (others : List SlotId) (s : State) : KeepsLocks s (testFences others s) := by
  unfold testFences
  exact (KeepsLocks.fold _ (fun s i => takeTurn_keepsLocks i s) _ _).from_same rfl

theorem firstState_keepsLocks {u : SlotUse} {s : State} (h : portInService u.port s = true) (i : SlotId) :
    KeepsLocks s (firstState i u s) := by
  unfold firstState
  split
  · refine .of_same ?_
    unfold enterLockWait
    split <;> rfl
  · split
    · exact (claimLock_keepsLocks h i u).trans (.of_same (meetFence_frame i _).lockPart)
    · exact .of_same (meetFence_frame i s).lockPart

theorem allocate_keepsLocks {r : DecodeRecord} {s : State} (h : portInService r.port s = true) (e : NonPostedEntry)
    (k : SlotKind) (data : List Byte) : KeepsLocks s (allocate e k data r s) := by
  unfold allocate
  split
  · exact .refl s
  · next i _ =>
    refine KeepsLocks.from_same (firstState_keepsLocks ?_ i) ((signalWrite_frame k r _).lockPart.trans rfl)
    exact (portInService_congr (signalWrite_frame k r _).ports r.port).trans h

/-! ## The decode of what a slot is given to (R8) -/

theorem checkBuffer_record {r r' : DecodeRecord} {s : State} (h : checkBuffer r s = .work r') : r' = r := by
  unfold checkBuffer at h
  split at h
  · split at h <;> cases h
    rfl
  · cases h
    rfl

/-- Rows 5 to 7 of R8 hand on the decode record they are given. -/
theorem decodeAtPort_record {kind : AccessKind} {agent : Agent} {r r' : DecodeRecord} {s : State}
    (h : decodeAtPort kind agent r s = .work r') : r' = r := by
  unfold decodeAtPort at h
  split at h
  · cases h
    rfl
  · exact checkBuffer_record h
  · cases h
    rfl
  · unfold checkExclusiveRead at h
    split at h
    · cases h
    · split at h <;> cases h
      rfl
  · unfold checkExclusiveWrite at h
    split at h
    · cases h
    · split at h
      · cases h
        rfl
      · split at h
        · cases h
        · split at h <;> cases h

/-- R8 row 4: a request that is to be queued or given a slot leads to a port in service. -/
theorem decode_work_inService {kind : AccessKind} {agent : Agent} {a : Addr} {length : Nat} {s : State} {r : DecodeRecord}
    (h : decode kind agent a length s = .work r) : portInService r.port s = true := by
  unfold decode at h
  split at h
  · cases h
  · dsimp only at h
    split at h
    · cases h
    · split at h
      · split at h <;> cases h
      · split at h
        · next hservice =>
          rw [decodeAtPort_record h]
          exact hservice
        · cases h

/-! ## The posted intake and the port exit (R29, R49, R136 to R138) -/

theorem exitHeadsAndTest_keepsLocks (s : State) : KeepsLocks s (exitHeadsAndTest s) := by
  have hheads : KeepsLocks s (lookUpHead s) := .of_same (lookUpHead_frame s).lockPart
  unfold exitHeadsAndTest
  dsimp only
  split
  · exact hheads
  · exact hheads.trans (testFences_keepsLocks [] _)

theorem retire_keepsLocks (p : Port) (e : QueueEntry) (s : State) : KeepsLocks s (retire p e s) := by
  unfold retire
  refine KeepsLocks.trans (.of_same ?_) (testFences_keepsLocks [] _)
  rw [(lookUpHead_frame _).lockPart, (countDown_frame e.generation _).lockPart]
  rfl

theorem exitAnswered_ports (p : Port) (c : ExitCauses) (s : State) :
    (lookUpHead (exitAnswered p c s)).ports = s.ports := by
  rw [(lookUpHead_frame _).ports, exitAnswered, (answerSlotsAtExit_frame p _).ports, exitBroken,
    (breakAtExit_frame p c.lock _).ports, exitMarked_ports]

/-- R120, R138: whatever lock the port had, its exit leaves the law, if the other ports' locks were in service. -/
theorem portExit_locksInService {p : Port} (c : ExitCauses) {s : State}
    (h : ∀ q, q ≠ p → peek s.locks q ≠ .opened → portInService q s = true) : LocksInService (portExit p c s) := by
  rw [portExit_eq]
  refine testFences_keepsLocks _ _ fun q hq => ?_
  rw [portInService_congr (exitAnswered_ports p c s)]
  rw [exitAnswered_locks, peek_poke] at hq
  split at hq
  · exact absurd rfl hq
  · next hpq => exact h q (Ne.symm hpq) hq

theorem failPort_keepsLocks (p : Port) (c : FaultCause) (x : Option SlotId) (s : State) :
    KeepsLocks s (failPort p c x s) := by
  intro hs
  rw [failPort_exits]
  refine portExit_locksInService _ fun q hqp hq => ?_
  rw [portFailed_locks] at hq
  rw [portFailed_otherService hqp]
  exact hs q hq

end Sys2Proof.Machine
end

section
/-! PROOFS. R109, kept by every command. Most commands touch neither a lock nor a port record; the others are the exits of the two
intakes, the sends, the messages from a target, the timers, the commit, and what moves a port. -/

namespace Sys2Proof.Machine

theorem UpstreamFrame.lockPart {s t : State} (h : UpstreamFrame s t) : lockPart t = lockPart s := by
  have hpart := congrArg Machine.lockPart h
  exact hpart

/-! ## Arrivals -/

theorem arrivePosted_keepsLocks (agent : BitVec 4) (length : Nat) (words : List Word) (data : List Byte) (s : State) :
    KeepsLocks s (arrivePosted agent length words data s) := by
  have hrecord : ∀ x, KeepsLocks s (storeRecord x s) := fun x => .of_same (storeRecord_lockPart x s)
  unfold arrivePosted
  dsimp only
  split
  · exact hrecord _
  · split
    · exact hrecord _
    · split
      · exact hrecord _
      · unfold joinPosted
        dsimp only
        split
        · exact (exitHeadsAndTest_keepsLocks _).from_same rfl
        · exact .of_same rfl

theorem arriveServiceDone_lockPart (agent : BitVec 4) (vector : BitVec 7) (words : List Word) (data : List Byte)
    (s : State) : lockPart (arriveServiceDone agent vector words data s) = lockPart s := by
  unfold arriveServiceDone
  split
  · split
    · unfold takeServiceDone
      split
      · exact storeRecord_lockPart _ s
      · exact storeRecord_lockPart _ s
      · split
        · exact (endService_frame _ _ s).lockPart
        · exact storeRecord_lockPart _ s
    · exact storeRecord_lockPart _ s
  · exact storeRecord_lockPart _ s

/-! ## The exit of the non-posted intake (R32, R57, R115) -/

theorem answerNow_keepsLocks (e : NonPostedEntry) (st : Status) (data : List Byte) {s t : State}
    (h : lockPart t = lockPart s) : KeepsLocks s (answerNow e st data t) :=
  .of_same ((answerNow_frame e st data t).lockPart.trans h)

theorem takeAccess_keepsLocks {d : Decoded} {s : State} (h : ∀ r, d = .work r → portInService r.port s = true)
    (e : NonPostedEntry) (k : SlotKind) (a : Addr) (n : Nat) (data : List Byte) :
    KeepsLocks s (takeAccess e k a n data d s) := by
  unfold takeAccess
  split
  · refine answerNow_keepsLocks e _ _ ?_
    split
    · exact storeRecord_lockPart _ s
    · rfl
  · exact answerNow_keepsLocks e _ _ (storeRecord_lockPart _ s)
  · exact answerNow_keepsLocks e _ _ rfl
  · exact answerNow_keepsLocks e _ _ rfl
  · exact answerNow_keepsLocks e _ _ (storeRecord_lockPart _ s)
  · exact answerNow_keepsLocks e _ _ rfl
  · exact answerNow_keepsLocks e _ _ (touchBuffer_frame _ s).lockPart
  · exact allocate_keepsLocks (h _ rfl) e k data

theorem takeRelease_keepsLocks (e : NonPostedEntry) (s : State) : KeepsLocks s (takeRelease e s) := by
  unfold takeRelease
  split
  · exact (answerNow_keepsLocks e _ _ rfl).trans (openLock_keepsLocks _ _)
  · split
    · exact answerNow_keepsLocks e _ _ rfl
    · exact answerNow_keepsLocks e _ _ (storeRecord_lockPart _ s)

theorem exitNonPosted_keepsLocks (e : NonPostedEntry) (s : State) : KeepsLocks s (exitNonPosted e s) := by
  unfold exitNonPosted
  dsimp only
  split
  · exact (takeRelease_keepsLocks e _).from_same rfl
  · refine (takeAccess_keepsLocks (fun r hr => ?_) e _ _ _ _).from_same rfl
    have hservice : portInService r.port s = true := decode_work_inService hr
    exact hservice

/-! ## Messages from a target -/

theorem ifActive_keepsLocks {act : State → State} {s : State} (p : Port) (h : KeepsLocks s (act s)) :
    KeepsLocks s (ifActive p act s) := by
  unfold ifActive
  split
  · exact h
  · exact .refl s

/-- R128: a port that becomes Active stays in service. -/
theorem takeReady_keepsLocks (p : Port) (posted nonPosted : Nat) (s : State) :
    KeepsLocks s (takeReady p posted nonPosted s) := by
  unfold takeReady
  dsimp only
  split
  · split
    · exact .putPort (.inr (.inl rfl))
    · exact failPort_keepsLocks p _ _ s
  · exact failPort_keepsLocks p _ _ s
  · exact .refl s
  · exact .refl s

theorem takeCredit_keepsLocks (p : Port) (lane : Lane) (count : Nat) (s : State) :
    KeepsLocks s (takeCredit p lane count s) := by
  unfold takeCredit
  dsimp only
  split
  · split
    · exact failPort_keepsLocks p _ _ s
    · exact .putPort (.inr (.inr rfl))
  · split
    · exact failPort_keepsLocks p _ _ s
    · exact .putPort (.inr (.inr rfl))

theorem takeReceipt_keepsLocks (p : Port) (seq : WriteSeq) (s : State) : KeepsLocks s (takeReceipt p seq s) := by
  unfold takeReceipt
  split
  · split
    · exact retire_keepsLocks p _ s
    · exact failPort_keepsLocks p _ _ s
  · exact failPort_keepsLocks p _ _ s

theorem takeInterrupt_lockPart (p : Port) (vector : BitVec 7) (s : State) :
    lockPart (takeInterrupt p vector s) = lockPart s := by
  unfold takeInterrupt
  split
  · split
    · exact storeRecord_lockPart _ s
    · exact (raiseVector_frame _ s).lockPart
  · exact storeRecord_lockPart _ s

/-! ## Completion pieces (R66 to R68, R113) -/

theorem completeRead_keepsLocks (i : SlotId) (u : SlotUse) (block : List Byte) (s : State) :
    KeepsLocks s (completeRead i u block s) := by
  have halone : KeepsLocks s (lockActs i u.port .done (answerSlot i .done block s)) :=
    (KeepsLocks.of_same (answerSlot_frame i _ _ s).lockPart).trans (lockActs_keepsLocks i _ _ _)
  unfold completeRead
  split
  · refine .of_same ?_
    rw [(freeSlot_frame i _).lockPart, (endFillDone_frame _ block _).lockPart, (reply_frame u _ _ s).lockPart]
  · exact halone
  · exact halone

theorem takeReadPiece_keepsLocks (p : Port) (i : SlotId) (u : SlotUse) (offset count : Nat) (data : List Byte)
    (s : State) : KeepsLocks s (takeReadPiece p i u offset count data s) := by
  unfold takeReadPiece
  split
  · exact failPort_keepsLocks p _ _ s
  · dsimp only
    split
    · exact (completeRead_keepsLocks i _ _ _).from_same rfl
    · exact .of_same rfl

theorem takeWritePiece_keepsLocks (p : Port) (i : SlotId) (u : SlotUse) (count : Nat) (data : List Byte) (s : State) :
    KeepsLocks s (takeWritePiece p i u count data s) := by
  unfold takeWritePiece
  split
  · exact (KeepsLocks.of_same (answerSlot_frame i _ _ s).lockPart).trans (lockActs_keepsLocks i _ _ _)
  · exact failPort_keepsLocks p _ _ s

theorem takeMatchingPiece_keepsLocks (p : Port) (i : SlotId) (u : SlotUse) (status : PieceStatus) (offset count : Nat)
    (data : List Byte) (s : State) : KeepsLocks s (takeMatchingPiece p i u status offset count data s) := by
  unfold takeMatchingPiece
  split
  · exact .of_same ((storeRecord_lockPart _ _).trans (freeSlot_frame i s).lockPart)
  · cases status with
    | fault => exact (KeepsLocks.of_same (failSlot_frame i _ s).lockPart).trans (lockActs_keepsLocks i _ _ _)
    | good =>
      dsimp only
      split
      · exact takeReadPiece_keepsLocks p i u _ _ _ s
      · exact takeReadPiece_keepsLocks p i u _ _ _ s
      · exact takeWritePiece_keepsLocks p i u _ _ s
      · exact takeWritePiece_keepsLocks p i u _ _ s

theorem takePiece_keepsLocks (p : Port) (tag : BitVec 8) (status : PieceStatus) (offset count : Nat) (data : List Byte)
    (s : State) : KeepsLocks s (takePiece p tag status offset count data s) := by
  unfold takePiece
  split
  · exact failPort_keepsLocks p _ _ s
  · split
    · exact .of_same (storeRecord_lockPart _ s)
    · split
      · exact takeMatchingPiece_keepsLocks p _ _ _ _ _ _ s
      · exact .refl s

/-! ## Sends (R45, R63) -/

theorem sendPosted_keepsLocks (p : Port) (e : QueueEntry) (s : State) : KeepsLocks s (sendPosted p e s) :=
  (KeepsLocks.putPort (p := p) (r := { peek s.ports p with
    postedCredit := (peek s.ports p).postedCredit - 1, lastWinner := .posted }) (.inr (.inr rfl))).trans (.of_same rfl)

theorem sendNonPosted_keepsLocks (p : Port) (i : SlotId) (u : SlotUse) (s : State) :
    KeepsLocks s (sendNonPosted p i u s) :=
  (KeepsLocks.putPort (p := p) (r := { peek s.ports p with
    nonPostedCredit := (peek s.ports p).nonPostedCredit - 1, lastWinner := .nonPosted }) (.inr (.inr rfl))).trans
    (.of_same rfl)

/-! ## Timers (R71, R72, R113, R119) -/

theorem expireSlot_keepsLocks (i : SlotId) (u : SlotUse) (s : State) : KeepsLocks s (expireSlot i u s) := by
  unfold expireSlot
  dsimp only
  refine KeepsLocks.trans (.of_same ?_) (lockActs_keepsLocks i _ _ _)
  rw [← storeRecord_lockPart (.completionExpired u.agent u.tag u.port i u.state) s]
  split
  · exact (orphanSlot_frame i u _).lockPart
  · exact (failSlot_frame i _ _).lockPart.trans (leaveLists_lockPart i u _)

/-! ## Management -/

theorem endRequest_keepsLocks {r : ManagementEntry} {rule : ManagementEntry → State → Answer}
    (h : ∀ s, KeepsLocks s (rule r s).after) (s : State) : KeepsLocks s (endRequest r rule s) := by
  have hanswer : KeepsLocks s (answerRequest r rule { s with current := none }).after := by
    unfold answerRequest
    split
    · exact .of_same rfl
    · split
      · exact .of_same (storeRecord_lockPart _ _)
      · split
        · exact .of_same rfl
        · exact (h _).from_same rfl
  exact hanswer.trans (.of_same ((appendCompletion_frame _ _).lockPart.trans (raiseOnFirstRecord_lockPart s _)))

theorem writeMasksRule_lockPart (r : ManagementEntry) (s : State) : lockPart (writeMasksRule r s).after = lockPart s := by
  rw [writeMasksRule, answerDone_after, (resteer_frame _).lockPart]
  rfl

theorem writeVectorRule_lockPart (r : ManagementEntry) (s : State) : lockPart (writeVectorRule r s).after = lockPart s := by
  unfold writeVectorRule
  dsimp only
  split
  · rfl
  · rw [answerDone_after, (resteer_frame _).lockPart]
    rfl

/-- R127: a port that enters Waiting is in service. -/
theorem enterWaiting_keepsLocks (p : Port) (s : State) : KeepsLocks s (enterWaiting p s) :=
  (KeepsLocks.putPort (p := p) (r := { peek s.ports p with
    state := .waiting, postedCredit := 0, nonPostedCredit := 0, postedGrant := 0, nonPostedGrant := 0,
    lastWinner := .nonPosted }) (.inl rfl)).trans (.of_same rfl)

/-- R120, R137: the port that a disable takes out of service loses its lock. -/
theorem disableRule_keepsLocks (p : Port) (s : State) : KeepsLocks s (disableRule p s).after := by
  unfold disableRule
  split
  · exact .refl s
  · refine fun hs => portExit_locksInService _ fun q hqp hq => ?_
    rw [leaveService, portInService_putPort, if_neg (Ne.symm hqp)]
    exact hs q hq

theorem portControlRule_keepsLocks (r : ManagementEntry) (s : State) : KeepsLocks s (portControlRule r s).after := by
  unfold portControlRule
  split
  · exact .refl s
  · split
    · unfold enableRule
      split
      · exact enterWaiting_keepsLocks _ s
      · exact .refl s
    · split
      · exact disableRule_keepsLocks _ s
      · split
        · unfold restartRule
          split
          · exact enterWaiting_keepsLocks _ s
          · exact .refl s
        · exact .refl s

theorem commitAccepted_keepsLocks (r : ManagementEntry) (s : State) : KeepsLocks s (commitAccepted r s) := by
  refine KeepsLocks.trans ?_ (.of_same (endDrainIfDone_frame _).lockPart)
  refine KeepsLocks.trans ?_ (.of_same (raiseOnFirstRecord_lockPart s _))
  unfold acceptCommit swapBanks
  refine KeepsLocks.trans ((exitHeadsAndTest_keepsLocks _).from_same ?_) (.of_same rfl)
  rfl

/-- R122: after an upstream link reset every lock is Open. -/
theorem upstreamReset_locksInService (s : State) : LocksInService (upstreamReset s) := by
  obtain ⟨u, -, hreset⟩ := upstreamReset_eq s
  intro p hp
  have hopened : peek (upstreamReset s).locks p = .opened := by
    rw [hreset, (resteer_frame _).locks]
    exact peek_replicate _ p
  exact absurd hopened hp

/-! ## Every command -/

/-- A command's outcome keeps the law of the locks of the state it ran on. -/
def OutcomeKeepsLocks (s : State) (o : Host.Outcome State Fault Refusal) : Prop := ∀ t, o = .next t → KeepsLocks s t

namespace OutcomeKeepsLocks

theorem next {s t : State} (h : KeepsLocks s t) : OutcomeKeepsLocks s (.next t) := by
  intro t' e
  cases e
  exact h

theorem event {act : State → State} {s : State} (h : KeepsLocks s (act s)) : OutcomeKeepsLocks s (event act s) :=
  next (h.trans (.of_same (raiseOnFirstRecord_lockPart s _)))

/-- A command that touches no lock and no port record. -/
theorem quiet {act : State → State} {s : State} (h : lockPart (act s) = lockPart s) :
    OutcomeKeepsLocks s (Machine.event act s) := event (.of_same h)

/-- The execution end of a request. -/
theorem executionEnd {named : ManagementEntry → Bool} {rule : ManagementEntry → State → Answer}
    (h : ∀ r s, KeepsLocks s (rule r s).after) (s : State) : OutcomeKeepsLocks s (executionEnd named rule s) := by
  unfold Machine.executionEnd
  split
  · split
    · exact next (endRequest_keepsLocks (h _) s)
    · exact next (.refl s)
  · exact next (.refl s)

/-- The execution end of a request whose operation touches no lock and no port record. -/
theorem quietEnd {named : ManagementEntry → Bool} {rule : ManagementEntry → State → Answer}
    (h : ∀ r s, lockPart (rule r s).after = lockPart s) (s : State) :
    OutcomeKeepsLocks s (Machine.executionEnd named rule s) := executionEnd (fun r s => .of_same (h r s)) s

end OutcomeKeepsLocks

theorem execPostedWrite_keepsLocks (agent : BitVec 4) (length : BitVec 9) (words : List Word) (data : List Byte)
    (s : State) : OutcomeKeepsLocks s (execPostedWrite agent length words data s) := by
  refine .event (KeepsLocks.trans ?_ (.of_same (takeFreeAddress_frame words _).lockPart))
  exact (arrivePosted_keepsLocks agent _ words data _).from_same (spendCredit_frame .posted s).lockPart

theorem execNonPostedIntakeExit_keepsLocks (s : State) : OutcomeKeepsLocks s (execNonPostedIntakeExit s) := by
  unfold execNonPostedIntakeExit
  split
  · exact .event (exitNonPosted_keepsLocks _ s)
  · exact .next (.refl s)

theorem execPostedWriteSend_keepsLocks (p : Port) (s : State) : OutcomeKeepsLocks s (execPostedWriteSend p s) := by
  unfold execPostedWriteSend
  split
  · exact .next (sendPosted_keepsLocks p _ s)
  · exact .next (.refl s)

theorem execNonPostedSend_keepsLocks (p : Port) (s : State) : OutcomeKeepsLocks s (execNonPostedSend p s) := by
  unfold execNonPostedSend
  split
  · split
    · exact .next (sendNonPosted_keepsLocks p _ _ s)
    · exact .next (.refl s)
  · exact .next (.refl s)

theorem execPortLinkFault_keepsLocks (p : Port) (s : State) : OutcomeKeepsLocks s (execPortLinkFault p s) := by
  refine .event ?_
  split
  · exact failPort_keepsLocks p _ none s
  · exact .refl s

theorem execCompletionTimerExpiry_keepsLocks (i : SlotId) (s : State) :
    OutcomeKeepsLocks s (execCompletionTimerExpiry i s) := by
  unfold execCompletionTimerExpiry
  split
  · split
    · exact .event (expireSlot_keepsLocks i _ s)
    · exact .next (.refl s)
  · exact .next (.refl s)

theorem execOrphanTimerExpiry_keepsLocks (i : SlotId) (s : State) : OutcomeKeepsLocks s (execOrphanTimerExpiry i s) := by
  unfold execOrphanTimerExpiry
  split
  · split
    · exact .quiet ((storeRecord_lockPart _ _).trans (freeSlot_frame i s).lockPart)
    · exact .next (.refl s)
  · exact .next (.refl s)

theorem execHoldTimerExpiry_keepsLocks (p : Port) (s : State) : OutcomeKeepsLocks s (execHoldTimerExpiry p s) := by
  unfold execHoldTimerExpiry
  split
  · split
    · exact .event ((breakLock_keepsLocks p _ s).trans (openLock_keepsLocks p _))
    · exact .next (.refl s)
  · exact .next (.refl s)
  · exact .next (.refl s)

theorem execCommitWindows_keepsLocks (s : State) : OutcomeKeepsLocks s (execCommitWindows s) := by
  unfold execCommitWindows
  split
  · split
    · exact .next (commitAccepted_keepsLocks _ s)
    · exact .quietEnd (fun _ _ => rfl) s
  · exact .next (.refl s)

theorem execEgressTransmission_keepsLocks (s : State) : OutcomeKeepsLocks s (execEgressTransmission s) := by
  unfold execEgressTransmission
  split
  · exact .next (.refl s)
  · exact .next (.of_same rfl)

theorem exec_keepsLocks (c : Instr) (s : State) : OutcomeKeepsLocks s (exec c s) := by
  cases c with
  | coldReset => exact .next (fun _ => reset_locksInService)
  | upstreamLinkReset => exact .next (fun _ => upstreamReset_locksInService s)
  | postedWrite agent length words data => exact execPostedWrite_keepsLocks agent length words data s
  | read agent tag length words data => exact .quiet (accessArrives_frame .read agent tag length words data s).lockPart
  | nonPostedWrite agent tag length words data =>
    exact .quiet (accessArrives_frame .nonPostedWrite agent tag length words data s).lockPart
  | exclusiveRead agent tag length words data =>
    exact .quiet (accessArrives_frame .exclusiveRead agent tag length words data s).lockPart
  | exclusiveWrite agent tag length words data =>
    exact .quiet (accessArrives_frame .exclusiveWrite agent tag length words data s).lockPart
  | exclusiveRelease agent tag words data =>
    exact .quiet ((spendCredit_frame .nonPosted s).trans (arriveRelease_frame agent tag words data _)).lockPart
  | managementRequest agent tag operation index words data =>
    exact .quiet ((spendCredit_frame .management s).trans
      (arriveManagement_frame agent tag operation index words data _)).lockPart
  | serviceDone agent vector words data => exact .quiet (arriveServiceDone_lockPart agent vector words data s)
  | unknownKindPacket kind agent => exact .quiet (storeRecord_lockPart _ s)
  | postedIntakeExit => exact .event (exitHeadsAndTest_keepsLocks s)
  | nonPostedIntakeExit => exact execNonPostedIntakeExit_keepsLocks s
  | postedWriteSend port => exact execPostedWriteSend_keepsLocks port s
  | nonPostedSend port => exact execNonPostedSend_keepsLocks port s
  | readyMessage port postedGrant nonPostedGrant => exact .event (takeReady_keepsLocks port _ _ s)
  | creditReturn port lane count => exact .event (ifActive_keepsLocks port (takeCredit_keepsLocks port lane _ s))
  | receipt port seq => exact .event (ifActive_keepsLocks port (takeReceipt_keepsLocks port seq s))
  | completionPiece port tag status offset count data =>
    exact .event (ifActive_keepsLocks port (takePiece_keepsLocks port tag status _ _ data s))
  | interruptMessage port vector => exact .event (ifActive_keepsLocks port (.of_same (takeInterrupt_lockPart port vector s)))
  | malformedMessage port => exact .event (ifActive_keepsLocks port (failPort_keepsLocks port _ none s))
  | portLinkFault port => exact execPortLinkFault_keepsLocks port s
  | completionTimerExpiry slot => exact execCompletionTimerExpiry_keepsLocks slot s
  | orphanTimerExpiry slot => exact execOrphanTimerExpiry_keepsLocks slot s
  | holdTimerExpiry port => exact execHoldTimerExpiry_keepsLocks port s
  | commitDrainEnd => exact .next (.of_same (endDrainIfDone_frame s).lockPart)
  | managementTake => exact .next (.of_same (takeManagementHead_frame s).lockPart)
  | undefinedOperation => exact .quietEnd (fun _ _ => rfl) s
  | readRegister => exact .quietEnd (fun r s => (readRegisterRule_frame r s).lockPart) s
  | readErrorQueueStatus => exact .quietEnd (fun r s => (readErrorStatusRule_frame r s).lockPart) s
  | writeRegister => exact .quietEnd (fun _ _ => rfl) s
  | writeManagementAgentMask => exact .quietEnd (fun r s => (writeMaskRule_frame r s).lockPart) s
  | writeMissPolicy => exact .quietEnd (fun _ _ => rfl) s
  | writeCompletionTimeout => exact .quietEnd (fun r s => (writeTimeoutRule_frame r s).lockPart) s
  | writeExclusiveHoldLimit => exact .quietEnd (fun r s => (writeHoldRule_frame r s).lockPart) s
  | writeAgentInterruptMasks => exact .quietEnd writeMasksRule_lockPart s
  | stageWindow => exact .quietEnd (fun r s => (stageWindowRule_frame r s).lockPart) s
  | readWindow => exact .quietEnd (fun r s => (readWindowRule_frame r s).lockPart) s
  | commitWindows => exact execCommitWindows_keepsLocks s
  | portControlEnable => exact .executionEnd portControlRule_keepsLocks s
  | portControlDisable => exact .executionEnd portControlRule_keepsLocks s
  | portControlRestart => exact .executionEnd portControlRule_keepsLocks s
  | writeVector => exact .quietEnd writeVectorRule_lockPart s
  | readVector => exact .quietEnd (fun _ _ => rfl) s
  | takeErrorRecord => exact .quietEnd (fun r s => (takeRecordRule_frame r s).lockPart) s
  | bridgeTimeAdvance => exact .next (.of_same rfl)
  | egressTransmission => exact execEgressTransmission_keepsLocks s

/-- Settles O54: the command a step takes runs on a state that differs from the one before in the queue of commands alone. -/
theorem locksInServiceKept : Obligations.LocksInServiceKept := by
  unfold Obligations.LocksInServiceKept
  intro s t h hstep
  unfold step at hstep
  split at hstep
  · cases hstep
    exact h
  · next c rest _ => exact ((exec_keepsLocks c _ t hstep).from_same rfl) h

end Sys2Proof.Machine
end

section
/-! PROOFS. The exclusive release and the opening of a lock: how the release is judged, and what the waiting order does with its
oldest slot (R113, R115, R118, R127; log 12). -/

namespace Sys2Proof.Machine

/-! ## The lock that an agent Holds (R115) -/

theorem heldPort_eq_some_iff (a : Agent) (p : Port) (s : State) :
    heldPort a s = some p ↔
      (∃ arrival expiry, peek s.locks p = .held a arrival expiry) ∧
        ∀ q, q < p → ¬ ∃ arrival expiry, peek s.locks q = .held a arrival expiry := by
  simp only [heldPort, allPorts, find?_finRange_eq_some, ← Bool.not_eq_true, holdsPort_iff]

theorem heldPort_eq_none_iff (a : Agent) (s : State) :
    heldPort a s = none ↔ ∀ p, ¬ ∃ arrival expiry, peek s.locks p = .held a arrival expiry := by
  simp only [heldPort, allPorts, List.find?_eq_none, List.mem_finRange, true_implies, holdsPort_iff]

/-- Of an agent that Holds no lock, R31's ownership is a claim. -/
theorem ownsLock_iff_claims {a : Agent} {s : State} (h : ∀ p, ¬ ∃ arrival expiry, peek s.locks p = .held a arrival expiry) :
    ownsLock a s = true ↔ ∃ p, ∃ arrival slot, peek s.locks p = .claimed a arrival slot := by
  rw [ownsLock_iff]
  exact exists_congr fun p => or_iff_right (h p)

/-! ## The release, judged (R115) -/

section Release

variable {e : NonPostedEntry} {s : State}

theorem takeRelease_done {p : Port} (h : heldPort e.agent s = some p) :
    takeRelease e s = openLock p (answerNow e .done [] s) := by
  simp only [takeRelease, h]

theorem takeRelease_broken (h : heldPort e.agent s = none) (hbroken : hasAgent s.broken e.agent = true) :
    takeRelease e s = answerNow e .broken [] { s with broken := dropAgent s.broken e.agent } := by
  simp only [takeRelease, h, hbroken, if_true]

theorem takeRelease_misuse (h : heldPort e.agent s = none) (hbroken : ¬ hasAgent s.broken e.agent = true) :
    takeRelease e s =
      answerNow e .misuse []
        (storeRecord
          (.exclusiveMisuse e.agent e.tag .exclusiveRelease (if ownsLock e.agent s then .notHeld else .noLock) none) s) := by
  simp only [takeRelease, h, if_neg hbroken]

end Release

/-! ## The oldest slot of a waiting order (R118) -/

section Order

variable {reopen : State → State} {p : Port} {i : SlotId} {rest : List SlotId} {u : SlotUse} {s : State}

theorem processOrder_unusedSlot (h : slotUse s i = none) :
    processOrder reopen p (i :: rest) s = processOrder reopen p rest s := by
  simp only [processOrder, h]

theorem processOrder_released (hu : slotUse s i = some u) (h : ¬ (u.kind = .exclusiveRead ∧ portInService p s = true)) :
    processOrder reopen p (i :: rest) s = processOrder reopen p rest (releaseFromWaiting p i s) := by
  simp only [processOrder, hu, if_neg h]

/-- R113: a claiming read that is answered at once leaves the lock to be opened again. -/
theorem processOrder_reopens (hu : slotUse s i = some u) (h : u.kind = .exclusiveRead ∧ portInService p s = true)
    (hanswered : slotUse (claimFromWaiting p i u s) i = none) :
    processOrder reopen p (i :: rest) s = reopen (claimFromWaiting p i u s) := by
  simp only [processOrder, hu, if_pos h, hanswered, Option.isNone_none, if_true]

theorem processOrder_claims (hu : slotUse s i = some u) (h : u.kind = .exclusiveRead ∧ portInService p s = true)
    (hstays : slotUse (claimFromWaiting p i u s) i ≠ none) :
    processOrder reopen p (i :: rest) s =
      (rest.filter (belongsTo u.agent (claimFromWaiting p i u s))).foldl (fun t j => releaseFromWaiting p j t)
        (claimFromWaiting p i u s) := by
  have hused : ¬ (slotUse (claimFromWaiting p i u s) i).isNone = true := by rwa [Option.isNone_iff_eq_none]
  simp only [processOrder, hu, if_pos h, if_neg hused]

end Order

theorem belongsTo_eq (a : Agent) (s : State) :
    belongsTo a s = fun j => decide ((slotUse s j).map SlotUse.agent = some a) := by
  funext j
  unfold belongsTo
  cases slotUse s j <;> simp

/-! ## The obligation -/

/-- Settles O18: the release by the three cases of `heldPort` and the broken flag, the opening by `openLock_eq`, and the waiting
order by its oldest slot. -/
theorem releaseIsJudgedByItsAgentsLock : Obligations.ReleaseIsJudgedByItsAgentsLock := by
  unfold Obligations.ReleaseIsJudgedByItsAgentsLock
  refine ⟨fun e s => ⟨fun p hholds hfirst => ?_, fun hnone => ⟨fun hbroken => ?_, fun hbroken hclaims => ?_,
    fun hbroken hclaims => ?_⟩⟩, openLock_eq,
    fun reopen p s => ⟨rfl, fun i rest => ⟨processOrder_unusedSlot, fun u hu => ?_⟩⟩⟩
  · exact takeRelease_done ((heldPort_eq_some_iff e.agent p s).2 ⟨hholds, hfirst⟩)
  · exact takeRelease_broken ((heldPort_eq_none_iff e.agent s).2 hnone) hbroken
  · rw [takeRelease_misuse ((heldPort_eq_none_iff e.agent s).2 hnone) hbroken, if_pos ((ownsLock_iff_claims hnone).2 hclaims)]
    rfl
  · have howns : ¬ ownsLock e.agent s = true := fun h => (not_exists.2 hclaims) ((ownsLock_iff_claims hnone).1 h)
    rw [takeRelease_misuse ((heldPort_eq_none_iff e.agent s).2 hnone) hbroken, if_neg howns]
    rfl
  · refine ⟨processOrder_released hu, fun hclaims => ⟨processOrder_reopens hu hclaims, fun hstays => ?_⟩⟩
    rw [processOrder_claims hu hclaims hstays, belongsTo_eq]
    rfl

end Sys2Proof.Machine
end

section
/-! PROOFS. The messages of the targets and the link faults: Ready, credit returns, interrupts, and what is discarded (R128, R129,
R131, R135, R139). -/

namespace Sys2Proof.Machine

/-! ## Events -/

/-- R148: an event that stores no record raises no vector at its end. -/
theorem event_quiet {act : State → State} {s : State} (h : (act s).records = s.records) : event act s = .next (act s) := by
  rw [event, raiseOnFirstRecord_same h]

theorem event_ifActive {p : Port} {s : State} (h : (peek s.ports p).state = .active) (act : State → State) :
    event (ifActive p act) s = .next (raiseOnFirstRecord s (act s)) := by
  rw [event, ifActive_active h]

/-- R129: the event of a message that is discarded changes nothing. -/
theorem event_ifActive_discarded {p : Port} {s : State} (h : (peek s.ports p).state ≠ .active) (act : State → State) :
    event (ifActive p act) s = .next s := by
  have hsame : ifActive p act s = s := ifActive_inactive h
  rw [event_quiet (by rw [hsame]), hsame]

/-! ## Ready (R128) -/

section Ready

variable {p : Port} {posted nonPosted : Nat} {s : State}

/-- A Waiting port opens its lanes with grants in range. -/
theorem takeReady_opens (h : (peek s.ports p).state = .waiting)
    (hg : 1 ≤ posted ∧ posted ≤ 16 ∧ 1 ≤ nonPosted ∧ nonPosted ≤ 32) :
    takeReady p posted nonPosted s =
      putPort p
        { peek s.ports p with
          state := .active, postedGrant := posted, postedCredit := posted, nonPostedGrant := nonPosted,
          nonPostedCredit := nonPosted } s := by
  simp only [takeReady, h, if_pos hg]

theorem takeReady_bad (h : (peek s.ports p).state = .waiting)
    (hg : ¬ (1 ≤ posted ∧ posted ≤ 16 ∧ 1 ≤ nonPosted ∧ nonPosted ≤ 32)) :
    takeReady p posted nonPosted s = failPort p .badReady none s := by
  simp only [takeReady, h, if_neg hg]

theorem takeReady_unexpected (h : (peek s.ports p).state = .active) :
    takeReady p posted nonPosted s = failPort p .unexpectedReady none s := by
  simp only [takeReady, h]

theorem takeReady_discarded (h : (peek s.ports p).state = .disabled ∨ (peek s.ports p).state = .failed) :
    takeReady p posted nonPosted s = s := by
  obtain h | h := h <;> simp only [takeReady, h]

end Ready

theorem exec_readyMessage (p : Port) (posted nonPosted : BitVec 6) (s : State) :
    exec (.readyMessage p posted nonPosted) s = event (takeReady p posted.toNat nonPosted.toNat) s := rfl

/-- Settles O24: the port's state picks the case, and in Waiting the range of the two grants. -/
theorem readyMessageOpensTheLanes : Obligations.ReadyMessageOpensTheLanes := by
  unfold Obligations.ReadyMessageOpensTheLanes
  intro p posted nonPosted s r
  rw [exec_readyMessage]
  refine ⟨fun h hp hp' hn hn' => ?_, fun h hg => ?_, fun h => ?_, fun h => ?_⟩
  · have hopens := takeReady_opens h ⟨hp, hp', hn, hn'⟩
    rw [event_quiet (by rw [hopens]; rfl), hopens]
    rfl
  · rw [event, takeReady_bad h (by omega)]
  · rw [event, takeReady_unexpected h]
  · have hsame : takeReady p posted.toNat nonPosted.toNat s = s := takeReady_discarded h
    rw [event_quiet (by rw [hsame]), hsame]

/-! ## Credit returns (R131) -/

section Credit

variable {p : Port} {count : Nat} {s : State}

theorem takeCredit_posted (h : 1 ≤ count) (hg : (peek s.ports p).postedCredit + count ≤ (peek s.ports p).postedGrant) :
    takeCredit p .posted count s =
      putPort p { peek s.ports p with postedCredit := (peek s.ports p).postedCredit + count } s :=
  if_neg (by omega)

theorem takeCredit_posted_bad (h : count = 0 ∨ (peek s.ports p).postedGrant < (peek s.ports p).postedCredit + count) :
    takeCredit p .posted count s = failPort p .badCreditReturn none s :=
  if_pos h

theorem takeCredit_nonPosted (h : 1 ≤ count)
    (hg : (peek s.ports p).nonPostedCredit + count ≤ (peek s.ports p).nonPostedGrant) :
    takeCredit p .nonPosted count s =
      putPort p { peek s.ports p with nonPostedCredit := (peek s.ports p).nonPostedCredit + count } s :=
  if_neg (by omega)

theorem takeCredit_nonPosted_bad
    (h : count = 0 ∨ (peek s.ports p).nonPostedGrant < (peek s.ports p).nonPostedCredit + count) :
    takeCredit p .nonPosted count s = failPort p .badCreditReturn none s :=
  if_pos h

end Credit

/-- R129, R131: the credit return of an Active port is taken. -/
theorem exec_creditReturn {p : Port} {s : State} (h : (peek s.ports p).state = .active) (lane : Lane) (count : BitVec 6) :
    exec (.creditReturn p lane count) s = .next (raiseOnFirstRecord s (takeCredit p lane count.toNat s)) :=
  event_ifActive h _

/-- Settles O25: on each lane a count within the grant only writes the port's record, and any other count is a fault. -/
theorem creditReturnStaysWithinTheGrant : Obligations.CreditReturnStaysWithinTheGrant := by
  unfold Obligations.CreditReturnStaysWithinTheGrant
  intro p count s hactive r
  refine ⟨fun h hg => ?_, fun h => ?_, fun h hg => ?_, fun h => ?_⟩
  · rw [exec_creditReturn hactive, takeCredit_posted h hg, raiseOnFirstRecord_same (putPort_records _ _ _)]
    rfl
  · rw [exec_creditReturn hactive, takeCredit_posted_bad h]
  · rw [exec_creditReturn hactive, takeCredit_nonPosted h hg, raiseOnFirstRecord_same (putPort_records _ _ _)]
    rfl
  · rw [exec_creditReturn hactive, takeCredit_nonPosted_bad h]

/-! ## What is discarded (R129, R135) -/

/-- R135: a link fault at a port out of service is ignored. -/
theorem exec_portLinkFault_ignored {p : Port} {s : State} (h : portInService p s = false) :
    exec (.portLinkFault p) s = .next s := by
  have hsame : (if portInService p s = true then failPort p .linkFault none s else s) = s := if_neg (by rw [h]; decide)
  have hexec : exec (.portLinkFault p) s =
      .next (raiseOnFirstRecord s (if portInService p s = true then failPort p .linkFault none s else s)) := rfl
  rw [hexec, hsame, raiseOnFirstRecord_same rfl]

/-- Settles O27: each of the five messages acts only at an Active port. -/
theorem messagesOfAnInactivePortAreDiscarded : Obligations.MessagesOfAnInactivePortAreDiscarded := by
  unfold Obligations.MessagesOfAnInactivePortAreDiscarded
  refine fun p s => ⟨fun h => ⟨fun lane count => ?_, fun seq => ?_, fun tag status offset count data => ?_,
    fun vector => ?_, ?_⟩, fun h => exec_portLinkFault_ignored (portInService_eq_false h)⟩
  · exact event_ifActive_discarded h (takeCredit p lane count.toNat)
  · exact event_ifActive_discarded h (takeReceipt p seq)
  · exact event_ifActive_discarded h (takePiece p tag status offset.toNat count.toNat data)
  · exact event_ifActive_discarded h (takeInterrupt p vector)
  · exact event_ifActive_discarded h (failPort p .malformedMessage none)

/-! ## Interrupt messages (R139) -/

theorem takeInterrupt_raises (p : Port) {v : VectorId} (h : v ≠ 0) (s : State) :
    takeInterrupt p (BitVec.ofNat 7 v.val) s = raiseVector v s := by
  simp only [takeInterrupt, vectorOfField_ofNat, if_neg h]

/-- Vector 0 and the values above 63 name no vector that a target may raise. -/
theorem takeInterrupt_bad (p : Port) {vector : BitVec 7} (h : vector = 0 ∨ 64 ≤ vector.toNat) (s : State) :
    takeInterrupt p vector s = storeRecord (.badInterrupt p vector) s := by
  obtain rfl | h := h
  · have hzero : vectorOfField 0 = some 0 := vectorOfField_ofNat 0
    simp only [takeInterrupt, hzero, if_true]
  · simp only [takeInterrupt, vectorOfField_none h]

/-- Settles O28: a raise stores no record, so only the BadInterrupt record can raise vector 0. -/
theorem interruptMessageRaisesItsVector : Obligations.InterruptMessageRaisesItsVector := by
  unfold Obligations.InterruptMessageRaisesItsVector
  refine fun p s => ⟨fun hactive => ?_, fun hinactive vector => event_ifActive_discarded hinactive (takeInterrupt p vector)⟩
  have hexec : ∀ vector, exec (.interruptMessage p vector) s = .next (raiseOnFirstRecord s (takeInterrupt p vector s)) :=
    fun vector => event_ifActive hactive (takeInterrupt p vector)
  refine ⟨fun v hv => ?_, fun vector hbad => ?_⟩
  · rw [hexec, takeInterrupt_raises p hv, raiseOnFirstRecord_same (raiseVector_frame v s).records]
  · rw [hexec, takeInterrupt_bad p hbad]

end Sys2Proof.Machine
end

section
/-! PROOFS. The management requests that are answered Invalid (R126, R163, R168, R171). -/

namespace Sys2Proof.Machine

/-! ## Codes and indices that name nothing -/

theorem operationOfCode_none {c : BitVec 4} (h : 9 ≤ c.toNat) : operationOfCode c = none := by
  obtain ⟨k, hk⟩ := Nat.exists_eq_add_of_le' h
  rw [operationOfCode, hk]
  rfl

theorem portOfIndex_none {i : BitVec 6} (h : 4 ≤ i.toNat) : portOfIndex i = none := dif_neg (by omega)

theorem registerWords_none {n : BitVec 6} (h : 14 ≤ n.toNat) (s : State) : registerWords n s = none := by
  obtain ⟨k, hk⟩ := Nat.exists_eq_add_of_le' h
  rw [registerWords, hk]
  rfl

/-! ## The Invalid answer -/

/-- A request that has ended Invalid: the unit is Idle, the request is answered, and nothing else has changed (R163). -/
def endedInvalid (r : ManagementEntry) (s : State) : Host.Outcome State Fault Refusal :=
  .next (appendCompletion { agent := r.agent, tag := r.tag, status := .invalid, data := [], words := [] }
    { s with current := none })

section Requests

variable {r : ManagementEntry} {named : ManagementEntry → Bool} {rule : ManagementEntry → State → Answer} {s : State}

theorem hasOperation_of {op : Operation} (h : operationOfCode r.operation = some op) : hasOperation op r = true :=
  decide_eq_true h

/-- R163 row 1: an undefined operation, whatever its agent. -/
theorem executionEnd_undefined (hc : s.current = some r) (hn : named r = true) (ho : operationOfCode r.operation = none) :
    executionEnd named rule s = endedInvalid r s := by
  rw [executionEnd_named hc hn, endRequest_invalid (.inl ho), endedInvalid]

/-- R163 row 3: of a request past the mask, a wrong number of operand words and a rule that finds it Invalid end alike. -/
theorem executionEnd_invalid {op : Operation} (hc : s.current = some r) (hn : named r = true)
    (ho : operationOfCode r.operation = some op)
    (hm : isReadOperation op = true ∨ hasAgent s.managementMask r.agent = true)
    (h : r.words.length = operandCount op → rule r { s with current := none } = answerInvalid { s with current := none }) :
    executionEnd named rule s = endedInvalid r s := by
  by_cases hw : r.words.length = operandCount op
  · exact executionEnd_answered hc hn ho hm hw (h hw) rfl
  · rw [executionEnd_named hc hn, endRequest_invalid (.inr ⟨op, ho, hm, hw⟩), endedInvalid]

/-- R163 row 3, for the rows that are named by the operation alone. -/
theorem executionEnd_wrongWords {op : Operation} (hc : s.current = some r) (ho : operationOfCode r.operation = some op)
    (hm : isReadOperation op = true ∨ hasAgent s.managementMask r.agent = true) (hw : r.words.length ≠ operandCount op) :
    executionEnd (hasOperation op) rule s = endedInvalid r s :=
  executionEnd_invalid hc (hasOperation_of ho) ho hm (fun h => absurd h hw)

/-- R168: a write of a writable register with a wrong number of operand words. -/
theorem registerWrite_wrongWords {n : Nat} (hc : s.current = some r) (ho : r.operation = 1)
    (hm : hasAgent s.managementMask r.agent = true) (hw : r.words.length ≠ 1) (hi : r.index.toNat = n) :
    executionEnd (writesRegister n) rule s = endedInvalid r s :=
  executionEnd_invalid (op := .writeRegister) hc (writesRegister_of ho hi) (congrArg operationOfCode ho) (.inr hm)
    (fun h => absurd h hw)

/-- R168: a write of a read-only or unnamed register, with any number of operand words. -/
theorem exec_writeRegister_invalid (hc : s.current = some r) (ho : r.operation = 1)
    (hm : hasAgent s.managementMask r.agent = true) (hi : r.index = 0 ∨ 6 ≤ r.index.toNat) :
    exec .writeRegister s = endedInvalid r s := by
  have hop : operationOfCode r.operation = some .writeRegister := congrArg operationOfCode ho
  have hindex : r.index.toNat = 0 ∨ 6 ≤ r.index.toNat := hi.imp_left (congrArg BitVec.toNat)
  exact executionEnd_invalid hc (by simpa [hasOperation_of hop] using hindex) hop (.inr hm) (fun _ => rfl)

/-- R167: a read of a register number that names none. -/
theorem readRegisterRule_unnamed (h : 14 ≤ r.index.toNat) (t : State) : readRegisterRule r t = answerInvalid t := by
  rw [readRegisterRule, registerWords_none h]

theorem exec_readRegister_invalid (hc : s.current = some r) (ho : r.operation = 0) (hi : r.index ≠ 6)
    (h : r.words ≠ [] ∨ 14 ≤ r.index.toNat) : exec .readRegister s = endedInvalid r s := by
  have hop : operationOfCode r.operation = some .readRegister := congrArg operationOfCode ho
  have hother : r.index.toNat ≠ 6 := fun h6 => hi (BitVec.eq_of_toNat_eq h6)
  refine executionEnd_invalid hc (by simp [hasOperation_of hop, hother]) hop (.inl rfl) (fun hw => ?_)
  exact readRegisterRule_unnamed (h.resolve_left (not_not.2 (List.length_eq_zero_iff.1 hw))) _

theorem exec_readErrorQueueStatus_wrongWords (hc : s.current = some r) (ho : r.operation = 0) (hi : r.index = 6)
    (hw : r.words ≠ []) : exec .readErrorQueueStatus s = endedInvalid r s := by
  have hop : operationOfCode r.operation = some .readRegister := congrArg operationOfCode ho
  exact executionEnd_invalid hc (by simp [hasOperation_of hop, hi]) hop (.inl rfl)
    (fun h => absurd h (List.length_pos_iff.2 hw).ne')

/-- R16: a commit that carries operand words is not accepted, and ends as any other request. -/
theorem exec_commitWindows_wrongWords (hc : s.current = some r) (ho : r.operation = 4)
    (hm : hasAgent s.managementMask r.agent = true) (hw : r.words ≠ []) : exec .commitWindows s = endedInvalid r s := by
  have hfails : commitPasses r s = false := by simp [commitPasses, hw]
  have hend : exec .commitWindows s = executionEnd (hasOperation .commitWindows) busyRule s := by
    have hexec : exec .commitWindows s = execCommitWindows s := rfl
    simp only [hexec, execCommitWindows, hc, hfails, Bool.and_false, Bool.false_eq_true, if_false]
  rw [hend]
  exact executionEnd_wrongWords hc (congrArg operationOfCode ho) (.inr hm) (List.length_pos_iff.2 hw).ne'

/-! ## PORT CONTROL (R126, R171) -/

theorem portControlRule_unnamedPort (h : 4 ≤ r.index.toNat) (t : State) : portControlRule r t = answerInvalid t := by
  rw [portControlRule, portOfIndex_none h]

theorem portControlRule_undefinedCode {w : Word} (hw : r.words = [w]) (h1 : w ≠ 1) (h2 : w ≠ 2) (h3 : w ≠ 3) (t : State) :
    portControlRule r t = answerInvalid t := by
  unfold portControlRule
  split
  · rfl
  · rw [valueWord_single hw, if_neg h1, if_neg h2, if_neg h3]

theorem portControl_unnamedPort {w : Word} (hc : s.current = some r) (ho : r.operation = 5)
    (hm : hasAgent s.managementMask r.agent = true) (hi : 4 ≤ r.index.toNat) (hw : r.words = [w]) :
    executionEnd (portControlIs w) portControlRule s = endedInvalid r s :=
  portControl_quiet hc ho hm hw (portControlRule_unnamedPort hi _) rfl

/-- Log 6: a PORT CONTROL whose operand is no operation code is ended by any of the three rows. -/
theorem portControl_undefined (code : Word) (hc : s.current = some r) (ho : r.operation = 5)
    (hm : hasAgent s.managementMask r.agent = true) (h1 : r.words ≠ [1]) (h2 : r.words ≠ [2]) (h3 : r.words ≠ [3]) :
    executionEnd (portControlIs code) portControlRule s = endedInvalid r s := by
  have hop : operationOfCode r.operation = some .portControl := congrArg operationOfCode ho
  have hcodes : r.words ∉ [[1#32], [2#32], [3#32]] :=
    List.not_mem_cons_of_ne_of_not_mem h1 (List.not_mem_cons_of_ne_of_not_mem h2 (mt List.mem_singleton.1 h3))
  have hnamed : portControlIs code r = true := by
    rw [portControlIs, hasOperation_of hop, decide_eq_false hcodes, Bool.not_false, Bool.or_true, Bool.and_true]
  refine executionEnd_invalid hc hnamed hop (.inr hm) (fun hlength => ?_)
  obtain ⟨w, hw⟩ := List.length_eq_one_iff.1 hlength
  have hcode : ∀ c, r.words ≠ [c] → w ≠ c := fun c hc hwc => hc (hwc ▸ hw)
  exact portControlRule_undefinedCode hw (hcode 1 h1) (hcode 2 h2) (hcode 3 h3) _

end Requests

/-- Settles O44: each request fails a check of R163, or its operation's rule finds it Invalid. -/
theorem invalidRequestsChangeNothing : Obligations.InvalidRequestsChangeNothing := by
  unfold Obligations.InvalidRequestsChangeNothing
  intro r s hc invalid
  have hinvalid : endedInvalid r s = invalid := rfl
  rw [← hinvalid]
  have hop : ∀ {c op}, operationOfCode c = some op → r.operation = c → operationOfCode r.operation = some op :=
    fun hcode ho => ho ▸ hcode
  refine ⟨fun ho => ?_, fun ho hm => ⟨exec_writeRegister_invalid hc ho hm, fun hw => ?_⟩,
    exec_readErrorQueueStatus_wrongWords hc, exec_readRegister_invalid hc, fun ho hw => ?_, fun ho hw => ?_,
    fun hm => ⟨fun ho hw => ?_, fun ho => exec_commitWindows_wrongWords hc ho hm, fun ho hw => ?_, fun ho hw => ?_,
      fun ho hi => ?_, fun ho h1 h2 h3 => ?_⟩⟩
  · have hcode := operationOfCode_none ho
    exact executionEnd_undefined hc (decide_eq_true hcode) hcode
  · have hwrites : ∀ {n : BitVec 6} {rule}, r.index = n → executionEnd (writesRegister n.toNat) rule s = endedInvalid r s :=
      fun hi => registerWrite_wrongWords hc ho hm hw (congrArg BitVec.toNat hi)
    exact ⟨hwrites, hwrites, hwrites, hwrites, hwrites⟩
  · exact executionEnd_wrongWords (op := .readVector) hc (hop rfl ho) (.inl rfl) (List.length_pos_iff.2 hw).ne'
  · exact executionEnd_wrongWords (op := .readWindow) hc (hop rfl ho) (.inl rfl) hw
  · exact executionEnd_wrongWords (op := .takeErrorRecord) hc (hop rfl ho) (.inr hm) (List.length_pos_iff.2 hw).ne'
  · exact executionEnd_wrongWords (op := .writeVector) hc (hop rfl ho) (.inr hm) hw
  · exact executionEnd_wrongWords (op := .stageWindow) hc (hop rfl ho) (.inr hm) hw
  · exact ⟨portControl_unnamedPort hc ho hm hi, portControl_unnamedPort hc ho hm hi, portControl_unnamedPort hc ho hm hi⟩
  · exact ⟨portControl_undefined 1 hc ho hm h1 h2 h3, portControl_undefined 2 hc ho hm h1 h2 h3,
      portControl_undefined 3 hc ho hm h1 h2 h3⟩

end Sys2Proof.Machine
end

section
/-! PROOFS. The reads of the registers (R140, R167, R181, 12.5). -/

namespace Sys2Proof.Machine

/-! ## The views a register word is made of -/

/-- A yes-or-no register holds 1 or 0. -/
theorem bit_setWidth (b : Bool) : (bit b).setWidth 32 = if b = true then (1 : Word) else 0 := by
  cases b <;> rfl

theorem bit_isSome_setWidth {α : Type} (o : Option α) [Decidable (o = none)] :
    (bit o.isSome).setWidth 32 = if o = none then (0 : Word) else 1 := by
  cases o with
  | none => rw [if_pos rfl]; rfl
  | some a => rw [if_neg nofun]; rfl

/-- 12.5: the Sent entries of an occupancy byte are the entries with a write sequence number. -/
theorem occupancyByte_eq (q : PostedQueue) :
    occupancyByte q =
      BitVec.ofNat 8 (q.entries.length * (q.entries.length + 1) / 2 +
        (q.entries.filter (fun e => decide (e.sent ≠ none))).length) := by
  have hsent : ∀ e : QueueEntry, e.sent.isSome = decide (e.sent ≠ none) := fun e => by cases e.sent <;> rfl
  rw [occupancyByte, List.countP_eq_length_filter, funext hsent]

/-! ## The reads -/

section Reads

variable {r : ManagementEntry} {words : List Word} {s : State} (hc : s.current = some r) (ho : r.operation = 0)
  (hw : r.words = [])

include hc ho hw

/-- R167: a read of any register but the error queue status, from any agent, reports its words. -/
theorem readRegister_reports (hi : r.index.toNat ≠ 6) (h : registerWords r.index s = some words) :
    exec .readRegister s =
      .next (appendCompletion { agent := r.agent, tag := r.tag, status := .done, data := [], words }
        { s with current := none }) := by
  have hrule : readRegisterRule r { s with current := none } =
      { after := { s with current := none }, status := .done, words } := by
    have hidle : registerWords r.index { s with current := none } = some words := h
    rw [readRegisterRule, hidle]
  exact executionEnd_answered (op := .readRegister) hc (by simp [hasOperation, operationOfCode, ho, hi])
    (congrArg operationOfCode ho) (.inl rfl) (by rw [hw]; rfl) hrule rfl

/-- R181: the read of the error queue status reports it as it stood, and clears the overflow flag. -/
theorem readErrorQueueStatus_reports (hi : r.index = 6) :
    exec .readErrorQueueStatus s =
      .next (appendCompletion
        { agent := r.agent, tag := r.tag, status := .done, data := [],
          words := [BitVec.ofBool s.overflow ++ BitVec.ofNat 31 s.records.length] }
        { s with current := none, overflow := false }) := by
  have hrule : readErrorStatusRule r { s with current := none } =
      { after := { s with current := none, overflow := false }, status := .done,
        words := [BitVec.ofBool s.overflow ++ BitVec.ofNat 31 s.records.length] } := by
    rw [readErrorStatusRule, hi]
    rfl
  exact executionEnd_answered (op := .readRegister) hc (by simp [hasOperation, operationOfCode, ho, hi])
    (congrArg operationOfCode ho) (.inl rfl) (by rw [hw]; rfl) hrule rfl

end Reads

/-- Settles O46: each register's words, view by view, as 12.5 lays them out. -/
theorem registerReadsReportTheState : Obligations.RegisterReadsReportTheState := by
  unfold Obligations.RegisterReadsReportTheState
  intro r s hc ho hw done reads portView occupancy lockView
  have hport : ∀ p, portWord (peek s.ports p) = portView p := by
    intro p
    dsimp only [portView, portWord]
    refine congrArg₂ (· ++ ·) ?_ ?_
    · congr 5
      cases (peek s.ports p).lastFault with
      | none => rfl
      | some cause => cases cause <;> rfl
    · cases (peek s.ports p).state <;> rfl
  have hqueue : ∀ p, occupancyByte (peek s.pwqs p) = occupancy p := fun p => occupancyByte_eq _
  have hlock : ∀ p, lockBits (peek s.locks p) = lockView p := by
    intro p
    unfold lockView
    cases peek s.locks p <;> rfl
  have hreads : ∀ {n : BitVec 6} {words}, n.toNat ≠ 6 → registerWords n s = some words → r.index = n → reads words :=
    fun hn h hi => readRegister_reports hc ho hw (hi ▸ hn) (hi ▸ h)
  refine ⟨hreads (by decide) rfl, hreads (by decide) rfl, hreads (by decide) ?_, hreads (by decide) rfl,
    hreads (by decide) rfl, hreads (by decide) rfl, readErrorQueueStatus_reports hc ho hw, hreads (by decide) ?_,
    hreads (by decide) ?_, hreads (by decide) rfl, hreads (by decide) ?_, hreads (by decide) ?_, hreads (by decide) ?_,
    hreads (by decide) rfl⟩
  · rw [← bit_setWidth]
    rfl
  · rw [← hport 0, ← hport 1, ← hport 2, ← hport 3]
    rfl
  · rw [← hqueue 0, ← hqueue 1, ← hqueue 2, ← hqueue 3]
    rfl
  · rw [← hlock 0, ← hlock 1, ← hlock 2, ← hlock 3]
    rfl
  · have hbank : (if s.activeBank = .a then 0#1 else 1#1) = match s.activeBank with | .a => 0#1 | .b => 1#1 := by
      cases s.activeBank <;> rfl
    rw [hbank]
    rfl
  · rw [← bit_isSome_setWidth]
    rfl

end Sys2Proof.Machine
end

section
/-! PROOFS. R143 and R146 in the steering unit: what a steer, a raise, a re-steer and the end of a service leave of the in-service
counts, and of the entries that stay Pending. -/

namespace Sys2Proof.Machine

/-! ## The in-service counts as sums over the entries (R143) -/

/-- 1 for an entry InService to an agent, 0 for any other. -/
def serviceShare (a : Agent) (e : VectorEntry) : Nat := (servedBy a e).toNat

theorem serviceShare_inService (a b : Agent) {e : VectorEntry} (h : e.state = .inService b) :
    serviceShare a e = if b = a then 1 else 0 := by
  by_cases hba : b = a <;> simp [serviceShare, servedBy, h, hba]

theorem serviceShare_other (a : Agent) {e : VectorEntry} (h : ∀ b, e.state ≠ .inService b) : serviceShare a e = 0 := by
  simp [serviceShare, servedBy, h a]

theorem toList_eq_map_peek {α : Type} {n : Nat} (v : Vector α n) : v.toList = (List.finRange n).map (peek v) :=
  List.ext_getElem (by simp) (fun i _ _ => by simp [peek])

theorem countP_toList_eq_tally {α : Type} {n : Nat} (p : α → Bool) (v : Vector α n) :
    v.toList.countP p = tally (fun a => (p a).toNat) v := by
  rw [toList_eq_map_peek, countP_eq_sum_map, List.map_map]
  exact (Fin.sum_univ_def _).symm

theorem serviceCountsExact_iff (s : State) :
    ServiceCountsExact s ↔
      (∀ a, peek s.serviceCounts a = tally (serviceShare a) s.vectors) ∧
        ∀ v, (peek s.vectors v).again = true → ∃ a, (peek s.vectors v).state = .inService a := by
  refine and_congr_left' (forall_congr' fun a => ?_)
  rw [countP_toList_eq_tally]
  rfl

theorem le_tally {α : Type} {n : Nat} (f : α → Nat) (v : Vector α n) (i : Fin n) : f (peek v i) ≤ tally f v :=
  Finset.single_le_sum (f := fun j => f (peek v j)) (fun _ _ => Nat.zero_le _) (Finset.mem_univ i)

/-- An entry that changes, and the counts with it by what it adds and takes away. -/
theorem ServiceCountsExact.entryChanged {s t : State} {v : VectorId} {e : VectorEntry} (h : ServiceCountsExact s)
    (ht : t.vectors = poke s.vectors v e)
    (hcounts : ∀ a, serviceShare a (peek s.vectors v) ≤ peek s.serviceCounts a →
      peek t.serviceCounts a + serviceShare a (peek s.vectors v) = peek s.serviceCounts a + serviceShare a e)
    (hagain : e.again = true → ∃ a, e.state = .inService a) : ServiceCountsExact t := by
  obtain ⟨hexact, hset⟩ := (serviceCountsExact_iff s).1 h
  refine (serviceCountsExact_iff t).2 ⟨fun a => ?_, fun w => ?_⟩
  · have hpoke := tally_poke (serviceShare a) s.vectors v e
    have hcount := hcounts a ((hexact a).symm ▸ le_tally (serviceShare a) s.vectors v)
    rw [ht]
    have := hexact a
    omega
  · rw [ht, peek_poke]
    split
    · exact hagain
    · exact hset w

/-- An entry that is not InService has its again flag clear. -/
theorem ServiceCountsExact.again_clear {s : State} {v : VectorId} (h : ServiceCountsExact s)
    (hv : ∀ a, (peek s.vectors v).state ≠ .inService a) : (peek s.vectors v).again = false := by
  refine Bool.eq_false_iff.2 fun hset => ?_
  obtain ⟨a, ha⟩ := h.2 v hset
  exact hv a ha

/-! ## Entries that stay Pending (R146) -/

/-- R146, of one entry: it is not Pending, or disabled, or has no eligible agent. -/
def EntryBlocked (masks : AgentSet) (e : VectorEntry) : Prop :=
  e.state = .pending → e.enabled = true → ∀ a, eligibleAgent e masks a = false

theorem pendingBlocked_iff (s : State) : PendingBlocked s ↔ ∀ v, EntryBlocked s.agentMasks (peek s.vectors v) := Iff.rfl

theorem entryBlocked_of_state {masks : AgentSet} {e : VectorEntry} (h : e.state ≠ .pending) : EntryBlocked masks e :=
  fun hpending => absurd hpending h

/-! ## A steer -/

/-- R146: a steer finds its entry blocked and changes nothing, or delivers it. -/
theorem steer_cases (v : VectorId) (s : State) :
    (EntryBlocked s.agentMasks (peek s.vectors v) ∧ steer v s = s) ∨
      ∃ a, (peek s.vectors v).state = .pending ∧ steer v s = deliver v a s := by
  by_cases hpending : (peek s.vectors v).state = .pending
  · by_cases henabled : (peek s.vectors v).enabled = true
    · cases hchoice : chooseAgent (peek s.vectors v) s.agentMasks s.serviceCounts with
      | none =>
        exact .inl ⟨fun _ _ => (chooseAgent_eq_none_iff _ _ _).1 hchoice, steer_eq_self (.inr (.inr hchoice))⟩
      | some a => exact .inr ⟨a, hpending, steer_delivers hpending henabled hchoice⟩
    · exact .inl ⟨fun _ h => absurd h henabled, steer_eq_self (.inr (.inl (Bool.eq_false_iff.2 henabled)))⟩
  · exact .inl ⟨entryBlocked_of_state hpending, steer_eq_self (.inl hpending)⟩

theorem deliver_vectors (v : VectorId) (a : Agent) (s : State) :
    (deliver v a s).vectors =
      poke s.vectors v { peek s.vectors v with state := .inService a, again := false, cursor := a } := rfl

theorem deliver_serviceCounts (v : VectorId) (a : Agent) (s : State) :
    (deliver v a s).serviceCounts = poke s.serviceCounts a (peek s.serviceCounts a + 1) := rfl

/-- A steer of one vector leaves the entries of the others, and every entry that is not Pending. -/
theorem steer_entry_eq {v w : VectorId} {s : State} (h : v ≠ w ∨ (peek s.vectors w).state ≠ .pending) :
    peek (steer v s).vectors w = peek s.vectors w := by
  obtain ⟨-, hsame⟩ | ⟨a, hpending, hdelivered⟩ := steer_cases v s
  · rw [hsame]
  · have hvw : v ≠ w := h.elim id fun hw hvw => hw (hvw ▸ hpending)
    rw [hdelivered, deliver_vectors, peek_poke_ne _ _ hvw]

theorem steer_entryBlocked (v : VectorId) (s : State) :
    EntryBlocked (steer v s).agentMasks (peek (steer v s).vectors v) := by
  obtain ⟨hblocked, hsame⟩ | ⟨a, -, hdelivered⟩ := steer_cases v s
  · rw [hsame]
    exact hblocked
  · rw [hdelivered, deliver_vectors, peek_poke_same]
    exact entryBlocked_of_state nofun

/-- A steer leaves its own entry blocked, and a blocked entry blocked. -/
theorem steer_keepsBlocked {v w : VectorId} {s : State} (h : v = w ∨ EntryBlocked s.agentMasks (peek s.vectors w)) :
    EntryBlocked (steer v s).agentMasks (peek (steer v s).vectors w) := by
  by_cases hvw : v = w
  · subst hvw
    exact steer_entryBlocked v s
  · rw [steer_entry_eq (.inl hvw), (steer_frame v s).agentMasks]
    exact h.resolve_left hvw

theorem deliver_serviceCountsExact {v : VectorId} {s : State} (a : Agent) (hv : (peek s.vectors v).state = .pending)
    (h : ServiceCountsExact s) : ServiceCountsExact (deliver v a s) := by
  refine h.entryChanged (deliver_vectors v a s) (fun b _ => ?_) nofun
  rw [serviceShare_other b (by rw [hv]; exact nofun), serviceShare_inService b a rfl, deliver_serviceCounts, peek_poke]
  split
  · next hab => rw [hab]
  · rfl

theorem steer_serviceCountsExact (v : VectorId) {s : State} (h : ServiceCountsExact s) : ServiceCountsExact (steer v s) := by
  obtain ⟨-, hsame⟩ | ⟨a, hpending, hdelivered⟩ := steer_cases v s
  · rw [hsame]
    exact h
  · rw [hdelivered]
    exact deliver_serviceCountsExact a hpending h

/-! ## A re-steer (R157) -/

theorem resteer_serviceCountsExact {s : State} (h : ServiceCountsExact s) : ServiceCountsExact (resteer s) :=
  fold_keeps (R := fun a b => ServiceCountsExact a → ServiceCountsExact b) (fun _ => id) (fun h k => k ∘ h) _
    (fun _ v => steer_serviceCountsExact v) allVectors s h

/-- An entry that is steered in a row of steers, or was blocked before it, is blocked after it. -/
theorem steer_foldl_keepsBlocked (w : VectorId) (l : List VectorId) : ∀ s : State,
    w ∈ l ∨ EntryBlocked s.agentMasks (peek s.vectors w) →
      EntryBlocked (l.foldl (fun s v => steer v s) s).agentMasks (peek (l.foldl (fun s v => steer v s) s).vectors w) := by
  induction l with
  | nil => exact fun s h => h.resolve_left List.not_mem_nil
  | cons v l ih =>
    refine fun s h => ih (steer v s) ?_
    obtain hmem | hblocked := h
    · obtain heq | hrest := List.mem_cons.1 hmem
      · exact .inr (steer_keepsBlocked (.inl heq.symm))
      · exact .inl hrest
    · exact .inr (steer_keepsBlocked (.inr hblocked))

/-- R157: whatever the entries were, a re-steer leaves Pending only what is blocked. -/
theorem resteer_pendingBlocked (s : State) : PendingBlocked (resteer s) :=
  fun v => steer_foldl_keepsBlocked v allVectors s (.inl (List.mem_finRange v))

/-- R157: an entry that is not Pending is passed over. -/
theorem resteer_entry_eq {v : VectorId} {s : State} (h : (peek s.vectors v).state ≠ .pending) :
    peek (resteer s).vectors v = peek s.vectors v :=
  fold_keeps (R := fun a b => (peek a.vectors v).state ≠ .pending → peek b.vectors v = peek a.vectors v) (fun _ _ => rfl)
    (fun hab hbc ha => (hbc ((hab ha).symm ▸ ha)).trans (hab ha)) _ (fun _ _ hw => steer_entry_eq (.inr hw)) allVectors s h

/-! ## What both laws are read from -/

/-- The entries, the masks and the in-service counts. -/
def steeringPart (s : State) : Vector VectorEntry 64 × AgentSet × Vector Nat 8 := (s.vectors, s.agentMasks, s.serviceCounts)

/-- The laws of R143 and R146, each kept from one state to another. -/
structure KeepsServices (s t : State) : Prop where
  counts : ServiceCountsExact s → ServiceCountsExact t
  blocked : PendingBlocked s → PendingBlocked t

namespace KeepsServices

theorem refl (s : State) : KeepsServices s s := ⟨id, id⟩

theorem trans {a b c : State} (h : KeepsServices a b) (k : KeepsServices b c) : KeepsServices a c :=
  ⟨k.counts ∘ h.counts, k.blocked ∘ h.blocked⟩

theorem of_same {s t : State} (h : steeringPart t = steeringPart s) : KeepsServices s t := by
  simp only [steeringPart, Prod.mk.injEq] at h
  obtain ⟨hvectors, hmasks, hcounts⟩ := h
  refine ⟨fun hs => ?_, fun hs => ?_⟩
  · rw [ServiceCountsExact, hvectors, hcounts]
    exact hs
  · rw [PendingBlocked, hvectors, hmasks]
    exact hs

/-- An operation that keeps the laws, run on a state with the same entries, masks and counts. -/
theorem from_same {s t u : State} (k : KeepsServices t u) (h : steeringPart t = steeringPart s) : KeepsServices s u :=
  (of_same h).trans k

/-- An entry that changes and is then steered: only the law of the counts needs to be kept by the change. -/
theorem steered {s t : State} {v : VectorId} {e : VectorEntry} (hvectors : t.vectors = poke s.vectors v e)
    (hmasks : t.agentMasks = s.agentMasks) (hcounts : ServiceCountsExact s → ServiceCountsExact t) :
    KeepsServices s (steer v t) := by
  refine ⟨fun hs => steer_serviceCountsExact v (hcounts hs), fun hs w => steer_keepsBlocked ?_⟩
  by_cases hvw : v = w
  · exact .inl hvw
  · rw [hvectors, hmasks, peek_poke_ne _ _ hvw]
    exact .inr (hs w)

/-- Anything followed by a re-steer: only the law of the counts needs to be kept before it. -/
theorem resteered {s t : State} (hcounts : ServiceCountsExact s → ServiceCountsExact t) : KeepsServices s (resteer t) :=
  ⟨fun hs => resteer_serviceCountsExact (hcounts hs), fun _ => resteer_pendingBlocked t⟩

end KeepsServices

/-! ## A raise and the end of a service (R147, R149, R152) -/

theorem raiseVector_keepsServices (v : VectorId) (s : State) : KeepsServices s (raiseVector v s) := by
  unfold raiseVector
  split
  · next hidle =>
    refine .steered rfl rfl fun hs => hs.entryChanged rfl (fun a _ => ?_) fun hset => ?_
    · have hpends : serviceShare a { peek s.vectors v with state := .pending } = 0 := serviceShare_other a (fun _ => nofun)
      rw [serviceShare_other a (by rw [hidle]; exact nofun), hpends]
      rfl
    · have hclear := hs.again_clear (v := v) (by rw [hidle]; exact nofun)
      exact absurd (hclear.symm.trans hset) nofun
  · exact .refl s
  · next b hservice =>
    refine ⟨fun hs => hs.entryChanged rfl (fun a _ => ?_) fun _ => ⟨b, hservice⟩, fun hs w => ?_⟩
    · rfl
    · rw [peek_poke]
      split
      · exact entryBlocked_of_state (by simp [hservice])
      · exact hs w

theorem raiseOnFirstRecord_keepsServices (s t : State) : KeepsServices t (raiseOnFirstRecord s t) := by
  unfold raiseOnFirstRecord
  split
  · exact raiseVector_keepsServices 0 t
  · exact .refl t

/-- A state in which an agent's service of a vector has ended, its entry left in a state of its own. -/
def serviceEnded (v : VectorId) (a : Agent) (st : VectorState) (s : State) : State :=
  { s with
    serviceCounts := poke s.serviceCounts a (peek s.serviceCounts a - 1)
    vectors := poke s.vectors v { peek s.vectors v with state := st, again := false } }

/-- R149, R152: whether a vector goes on after its service ends. -/
def serviceGoesOn (v : VectorId) (s : State) : Bool := if v = 0 then !s.records.isEmpty else (peek s.vectors v).again

theorem endService_eq (v : VectorId) (a : Agent) (s : State) :
    endService v a s = steer v (serviceEnded v a (if serviceGoesOn v s then .pending else .idle) s) := rfl

/-- R149: the service that ends is counted by the agent's count. -/
theorem serviceEnded_serviceCountsExact {v : VectorId} {a : Agent} {st : VectorState} {s : State}
    (hv : (peek s.vectors v).state = .inService a) (hst : ∀ b, st ≠ .inService b) (h : ServiceCountsExact s) :
    ServiceCountsExact (serviceEnded v a st s) := by
  refine h.entryChanged rfl (fun b hle => ?_) nofun
  have hended : serviceShare b { peek s.vectors v with state := st, again := false } = 0 := serviceShare_other b hst
  have hcounts : (serviceEnded v a st s).serviceCounts = poke s.serviceCounts a (peek s.serviceCounts a - 1) := rfl
  rw [serviceShare_inService b a hv] at hle ⊢
  rw [hended, hcounts, peek_poke]
  by_cases hab : a = b
  · subst hab
    rw [if_pos rfl] at hle
    rw [if_pos rfl, if_pos rfl]
    omega
  · rw [if_neg hab, if_neg hab]

theorem endService_keepsServices {v : VectorId} {a : Agent} {s : State} (h : (peek s.vectors v).state = .inService a) :
    KeepsServices s (endService v a s) := by
  rw [endService_eq]
  refine .steered rfl rfl (serviceEnded_serviceCountsExact h fun b => ?_)
  split <;> exact nofun

theorem takeServiceDone_keepsServices (a : Agent) (v : VectorId) (s : State) : KeepsServices s (takeServiceDone a v s) := by
  have hrecord : ∀ x, KeepsServices s (storeRecord x s) := fun x => .of_same (by
    rw [steeringPart, storeRecord_vectors, storeRecord_agentMasks, storeRecord_serviceCounts]; rfl)
  unfold takeServiceDone
  split
  · exact hrecord _
  · exact hrecord _
  · next b hservice =>
    split
    · next hab => exact endService_keepsServices (hab ▸ hservice)
    · exact hrecord _

end Sys2Proof.Machine
end

section
/-! PROOFS. R143 and R146, kept by every command. Most commands touch no entry, no mask and no in-service count but by the raise
of vector 0 at their end; the others are the Service Done, the interrupt message, the writes of the masks and of a vector, and
the resets. -/

namespace Sys2Proof.Machine

/-! ## Frames -/

theorem EventFrame.steeringPart {s t : State} (h : EventFrame s t) : steeringPart t = steeringPart s := by
  rw [Machine.steeringPart, Machine.steeringPart, h.vectors, h.agentMasks, h.serviceCounts]

theorem LockFrame.steeringPart {s t : State} (h : LockFrame s t) : steeringPart t = steeringPart s := h.toEvent.steeringPart

theorem TrackerFrame.steeringPart {s t : State} (h : TrackerFrame s t) : steeringPart t = steeringPart s :=
  h.toLock.steeringPart

theorem FreeFrame.steeringPart {s t : State} (h : FreeFrame s t) : steeringPart t = steeringPart s := h.toTracker.steeringPart

theorem UpstreamFrame.steeringPart {s t : State} (h : UpstreamFrame s t) : steeringPart t = steeringPart s := by
  have hpart := congrArg Machine.steeringPart h
  exact hpart

theorem storeRecord_steeringPart (x : RecordBody) (s : State) : steeringPart (storeRecord x s) = steeringPart s :=
  (storeRecord_upstreamFrame x s).steeringPart

theorem failPort_steeringPart (p : Port) (c : FaultCause) (x : Option SlotId) (s : State) :
    steeringPart (failPort p c x s) = steeringPart s := (failPort_frame p c x s).steeringPart

/-! ## The arrival and the exits of requests -/

theorem arrivePosted_steeringPart (agent : BitVec 4) (length : Nat) (words : List Word) (data : List Byte) (s : State) :
    steeringPart (arrivePosted agent length words data s) = steeringPart s := by
  unfold arrivePosted
  dsimp only
  split
  · exact storeRecord_steeringPart _ s
  · split
    · exact storeRecord_steeringPart _ s
    · split
      · exact storeRecord_steeringPart _ s
      · unfold joinPosted
        dsimp only
        split
        · exact (exitHeadsAndTest_frame _).steeringPart
        · rfl

theorem answerNow_steeringPart (e : NonPostedEntry) (st : Status) (data : List Byte) (s : State) :
    steeringPart (answerNow e st data s) = steeringPart s := rfl

theorem takeAccess_steeringPart (e : NonPostedEntry) (k : SlotKind) (a : Addr) (n : Nat) (data : List Byte) (d : Decoded)
    (s : State) : steeringPart (takeAccess e k a n data d s) = steeringPart s := by
  unfold takeAccess
  split
  · rw [answerNow_steeringPart]
    split
    · exact storeRecord_steeringPart _ s
    · rfl
  · exact storeRecord_steeringPart _ s
  · rfl
  · rfl
  · exact storeRecord_steeringPart _ s
  · rfl
  · rfl
  · exact (allocate_frame e k data _ s).steeringPart

theorem takeRelease_steeringPart (e : NonPostedEntry) (s : State) : steeringPart (takeRelease e s) = steeringPart s := by
  unfold takeRelease
  split
  · exact (openLock_frame _ _).steeringPart
  · split
    · rfl
    · exact storeRecord_steeringPart _ s

theorem exitNonPosted_steeringPart (e : NonPostedEntry) (s : State) : steeringPart (exitNonPosted e s) = steeringPart s := by
  unfold exitNonPosted
  dsimp only
  split
  · exact takeRelease_steeringPart e _
  · exact takeAccess_steeringPart e _ _ _ _ _ _

/-! ## Messages from a target -/

theorem ifActive_keepsServices {act : State → State} {s : State} (p : Port) (h : KeepsServices s (act s)) :
    KeepsServices s (ifActive p act s) := by
  unfold ifActive
  split
  · exact h
  · exact .refl s

theorem takeReady_steeringPart (p : Port) (posted nonPosted : Nat) (s : State) :
    steeringPart (takeReady p posted nonPosted s) = steeringPart s := by
  unfold takeReady
  dsimp only
  split
  · split
    · rfl
    · exact failPort_steeringPart p _ _ s
  · exact failPort_steeringPart p _ _ s
  · rfl
  · rfl

theorem takeCredit_steeringPart (p : Port) (lane : Lane) (count : Nat) (s : State) :
    steeringPart (takeCredit p lane count s) = steeringPart s := by
  unfold takeCredit
  dsimp only
  split
  · split
    · exact failPort_steeringPart p _ _ s
    · rfl
  · split
    · exact failPort_steeringPart p _ _ s
    · rfl

theorem takeReceipt_steeringPart (p : Port) (seq : WriteSeq) (s : State) :
    steeringPart (takeReceipt p seq s) = steeringPart s := by
  unfold takeReceipt
  split
  · split
    · exact (retire_frame p _ s).steeringPart
    · exact failPort_steeringPart p _ _ s
  · exact failPort_steeringPart p _ _ s

/-- R139: an interrupt message makes a record or raises its vector. -/
theorem takeInterrupt_keepsServices (p : Port) (vector : BitVec 7) (s : State) :
    KeepsServices s (takeInterrupt p vector s) := by
  unfold takeInterrupt
  split
  · split
    · exact .of_same (storeRecord_steeringPart _ s)
    · exact raiseVector_keepsServices _ s
  · exact .of_same (storeRecord_steeringPart _ s)

theorem takeReadPiece_steeringPart (p : Port) (i : SlotId) (u : SlotUse) (offset count : Nat) (data : List Byte)
    (s : State) : steeringPart (takeReadPiece p i u offset count data s) = steeringPart s := by
  unfold takeReadPiece
  split
  · exact failPort_steeringPart p _ _ s
  · dsimp only
    split
    · exact (completeRead_frame i _ _ _).steeringPart
    · rfl

theorem takeWritePiece_steeringPart (p : Port) (i : SlotId) (u : SlotUse) (count : Nat) (data : List Byte) (s : State) :
    steeringPart (takeWritePiece p i u count data s) = steeringPart s := by
  unfold takeWritePiece
  split
  · exact ((answerSlot_frame i _ _ s).toTracker.toLock.trans (lockActs_frame i _ _ _)).steeringPart
  · exact failPort_steeringPart p _ _ s

theorem takeMatchingPiece_steeringPart (p : Port) (i : SlotId) (u : SlotUse) (status : PieceStatus) (offset count : Nat)
    (data : List Byte) (s : State) : steeringPart (takeMatchingPiece p i u status offset count data s) = steeringPart s := by
  unfold takeMatchingPiece
  split
  · exact (storeRecord_steeringPart _ _).trans (freeSlot_frame i s).steeringPart
  · cases status with
    | fault => exact ((failSlot_frame i _ s).toLock.trans (lockActs_frame i _ _ _)).steeringPart
    | good =>
      dsimp only
      split
      · exact takeReadPiece_steeringPart p i u _ _ _ s
      · exact takeReadPiece_steeringPart p i u _ _ _ s
      · exact takeWritePiece_steeringPart p i u _ _ s
      · exact takeWritePiece_steeringPart p i u _ _ s

theorem takePiece_steeringPart (p : Port) (tag : BitVec 8) (status : PieceStatus) (offset count : Nat) (data : List Byte)
    (s : State) : steeringPart (takePiece p tag status offset count data s) = steeringPart s := by
  unfold takePiece
  split
  · exact failPort_steeringPart p _ _ s
  · split
    · exact storeRecord_steeringPart _ s
    · split
      · exact takeMatchingPiece_steeringPart p _ _ _ _ _ _ s
      · rfl

/-! ## Timers -/

theorem expireSlot_steeringPart (i : SlotId) (u : SlotUse) (s : State) : steeringPart (expireSlot i u s) = steeringPart s := by
  unfold expireSlot
  dsimp only
  rw [(lockActs_frame i _ _ _).steeringPart, ← storeRecord_steeringPart (.completionExpired u.agent u.tag u.port i u.state) s]
  split
  · exact (orphanSlot_frame i u _).steeringPart
  · exact ((leaveLists_frame i u _).trans (failSlot_frame i _ _).toLock).steeringPart

theorem expireHold_steeringPart (p : Port) (s : State) : steeringPart (expireHold p s) = steeringPart s :=
  ((breakLock_frame p _ s).trans (openLock_frame p _).toEvent).steeringPart

/-! ## Service Done (R149) -/

theorem arriveServiceDone_keepsServices (agent : BitVec 4) (vector : BitVec 7) (words : List Word) (data : List Byte)
    (s : State) : KeepsServices s (arriveServiceDone agent vector words data s) := by
  unfold arriveServiceDone
  split
  · split
    · exact takeServiceDone_keepsServices _ _ s
    · exact .of_same (storeRecord_steeringPart _ s)
  · exact .of_same (storeRecord_steeringPart _ s)

/-! ## Management -/

theorem endRequest_keepsServices {r : ManagementEntry} {rule : ManagementEntry → State → Answer}
    (h : ∀ s, KeepsServices s (rule r s).after) (s : State) : KeepsServices s (endRequest r rule s) := by
  have hanswer : KeepsServices s (answerRequest r rule { s with current := none }).after := by
    unfold answerRequest
    split
    · exact .of_same rfl
    · split
      · exact .of_same (storeRecord_steeringPart _ _)
      · split
        · exact .of_same rfl
        · exact (h _).from_same rfl
  exact (hanswer.trans (raiseOnFirstRecord_keepsServices s _)).trans (.of_same rfl)

/-- R156: the masks change, and the re-steer delivers what they let through. -/
theorem writeMasksRule_keepsServices (r : ManagementEntry) (s : State) : KeepsServices s (writeMasksRule r s).after := by
  rw [writeMasksRule, answerDone_after]
  exact .resteered id

/-- R154: an entry's four writable fields change, and no in-service count depends on them. -/
theorem writeVectorRule_keepsServices (r : ManagementEntry) (s : State) : KeepsServices s (writeVectorRule r s).after := by
  unfold writeVectorRule
  dsimp only
  split
  · exact .refl s
  · rw [answerDone_after]
    exact .resteered fun hs => hs.entryChanged rfl (fun _ _ => rfl) (hs.2 _)

theorem portControlRule_steeringPart (r : ManagementEntry) (s : State) :
    steeringPart (portControlRule r s).after = steeringPart s := by
  unfold portControlRule
  split
  · rfl
  · split
    · unfold enableRule
      split <;> rfl
    · split
      · unfold disableRule
        split
        · rfl
        · exact (portExit_frame _ _ _).steeringPart
      · split
        · unfold restartRule
          split <;> rfl
        · rfl

theorem commitAccepted_keepsServices (r : ManagementEntry) (s : State) : KeepsServices s (commitAccepted r s) := by
  refine KeepsServices.trans ?_ (.of_same (endDrainIfDone_frame _).steeringPart)
  refine KeepsServices.trans (.of_same ?_) (raiseOnFirstRecord_keepsServices s _)
  exact (exitHeadsAndTest_frame _).steeringPart

/-! ## Resets (R158) -/

theorem reset_keepsServices {s t : State} (h : steeringPart t = steeringPart State.reset) : KeepsServices s t :=
  have hreset := KeepsServices.of_same h
  ⟨fun _ => hreset.counts reset_serviceCountsExact, fun _ => hreset.blocked reset_pendingBlocked⟩

theorem vectorAfterReset_notInService {first : Prop} [Decidable first] (v : VectorId) (e : VectorEntry) (a : Agent) :
    (vectorAfterReset first v e).state ≠ .inService a := by
  unfold vectorAfterReset
  cases he : e.state with
  | inService b => exact nofun
  | pending => simp [he]
  | idle =>
    dsimp only
    split
    · exact nofun
    · simp [he]

/-- An entry that is not InService keeps its again flag; an InService one loses it. -/
theorem vectorAfterReset_again {first : Prop} [Decidable first] {v : VectorId} {e : VectorEntry}
    (h : e.again = true → ∃ a, e.state = .inService a) : (vectorAfterReset first v e).again = false := by
  have hclear : (∀ a, e.state ≠ .inService a) → e.again = false := fun hno => Bool.eq_false_iff.2 fun hset =>
    (h hset).elim hno
  unfold vectorAfterReset
  cases he : e.state with
  | inService b => rfl
  | pending => exact hclear (by rw [he]; exact fun _ => nofun)
  | idle =>
    have hidle : e.again = false := hclear (by rw [he]; exact fun _ => nofun)
    dsimp only
    split <;> exact hidle

theorem upstreamResetBase_serviceCountsExact {s : State} (u : State) (h : ServiceCountsExact s) :
    ServiceCountsExact (upstreamResetBase s u) := by
  have hvectors : ∀ v, peek (upstreamResetBase s u).vectors v = vectorAfterReset (s.records = []) v (peek s.vectors v) :=
    fun v => peek_ofFn _ v
  refine (serviceCountsExact_iff _).2 ⟨fun a => ?_, fun v hset => ?_⟩
  · have hnone : ∀ v, serviceShare a (peek (upstreamResetBase s u).vectors v) = 0 := fun v =>
      serviceShare_other a (by rw [hvectors]; exact vectorAfterReset_notInService v _)
    rw [tally, Finset.sum_eq_zero fun v _ => hnone v]
    exact peek_replicate 0 a
  · rw [hvectors, vectorAfterReset_again (h.2 v)] at hset
    cases hset

theorem upstreamReset_keepsServices (s : State) : KeepsServices s (upstreamReset s) := by
  obtain ⟨u, -, hreset⟩ := upstreamReset_eq s
  rw [hreset]
  exact .resteered (upstreamResetBase_serviceCountsExact u)

/-! ## Every command -/

/-- A command's outcome keeps both laws of the state it ran on. -/
def OutcomeKeepsServices (s : State) (o : Host.Outcome State Fault Refusal) : Prop := ∀ t, o = .next t → KeepsServices s t

namespace OutcomeKeepsServices

theorem next {s t : State} (h : KeepsServices s t) : OutcomeKeepsServices s (.next t) := by
  intro t' e
  cases e
  exact h

/-- A command that is no event, and touches no entry, mask or count. -/
theorem idle {s t : State} (h : steeringPart t = steeringPart s) : OutcomeKeepsServices s (.next t) := next (.of_same h)

theorem event {act : State → State} {s : State} (h : KeepsServices s (act s)) : OutcomeKeepsServices s (event act s) :=
  next (h.trans (raiseOnFirstRecord_keepsServices s _))

/-- An event that touches no entry, mask or count but by the raise of vector 0. -/
theorem quiet {act : State → State} {s : State} (h : steeringPart (act s) = steeringPart s) :
    OutcomeKeepsServices s (Machine.event act s) := event (.of_same h)

/-- The execution end of a request. -/
theorem executionEnd {named : ManagementEntry → Bool} {rule : ManagementEntry → State → Answer}
    (h : ∀ r s, KeepsServices s (rule r s).after) (s : State) : OutcomeKeepsServices s (executionEnd named rule s) := by
  unfold Machine.executionEnd
  split
  · split
    · exact next (endRequest_keepsServices (h _) s)
    · exact idle rfl
  · exact idle rfl

/-- The execution end of a request whose operation touches no entry, mask or count. -/
theorem quietEnd {named : ManagementEntry → Bool} {rule : ManagementEntry → State → Answer}
    (h : ∀ r s, steeringPart (rule r s).after = steeringPart s) (s : State) :
    OutcomeKeepsServices s (Machine.executionEnd named rule s) := executionEnd (fun r s => .of_same (h r s)) s

end OutcomeKeepsServices

theorem execPostedWrite_keepsServices (agent : BitVec 4) (length : BitVec 9) (words : List Word) (data : List Byte)
    (s : State) : OutcomeKeepsServices s (execPostedWrite agent length words data s) := by
  refine .quiet ?_
  rw [(takeFreeAddress_frame words _).steeringPart, arrivePosted_steeringPart, (spendCredit_frame .posted s).steeringPart]

theorem execNonPostedIntakeExit_keepsServices (s : State) : OutcomeKeepsServices s (execNonPostedIntakeExit s) := by
  unfold execNonPostedIntakeExit
  split
  · exact .quiet (exitNonPosted_steeringPart _ s)
  · exact .idle rfl

theorem execPostedWriteSend_keepsServices (p : Port) (s : State) : OutcomeKeepsServices s (execPostedWriteSend p s) := by
  unfold execPostedWriteSend
  split <;> exact .idle rfl

theorem execNonPostedSend_keepsServices (p : Port) (s : State) : OutcomeKeepsServices s (execNonPostedSend p s) := by
  unfold execNonPostedSend
  split
  · split <;> exact .idle rfl
  · exact .idle rfl

theorem execPortLinkFault_keepsServices (p : Port) (s : State) : OutcomeKeepsServices s (execPortLinkFault p s) := by
  refine .quiet ?_
  split
  · exact failPort_steeringPart p _ none s
  · rfl

theorem execCompletionTimerExpiry_keepsServices (i : SlotId) (s : State) :
    OutcomeKeepsServices s (execCompletionTimerExpiry i s) := by
  unfold execCompletionTimerExpiry
  split
  · split
    · exact .quiet (expireSlot_steeringPart i _ s)
    · exact .idle rfl
  · exact .idle rfl

theorem execOrphanTimerExpiry_keepsServices (i : SlotId) (s : State) :
    OutcomeKeepsServices s (execOrphanTimerExpiry i s) := by
  unfold execOrphanTimerExpiry
  split
  · split
    · exact .quiet ((storeRecord_steeringPart _ _).trans (freeSlot_frame i s).steeringPart)
    · exact .idle rfl
  · exact .idle rfl

theorem execHoldTimerExpiry_keepsServices (p : Port) (s : State) : OutcomeKeepsServices s (execHoldTimerExpiry p s) := by
  unfold execHoldTimerExpiry
  split
  · split
    · exact .quiet (expireHold_steeringPart p s)
    · exact .idle rfl
  · exact .idle rfl
  · exact .idle rfl

theorem execCommitWindows_keepsServices (s : State) : OutcomeKeepsServices s (execCommitWindows s) := by
  unfold execCommitWindows
  split
  · split
    · exact .next (commitAccepted_keepsServices _ s)
    · exact .quietEnd (fun _ _ => rfl) s
  · exact .idle rfl

theorem execEgressTransmission_keepsServices (s : State) : OutcomeKeepsServices s (execEgressTransmission s) := by
  unfold execEgressTransmission
  split <;> exact .idle rfl

theorem exec_keepsServices (c : Instr) (s : State) : OutcomeKeepsServices s (exec c s) := by
  cases c with
  | coldReset => exact .next (reset_keepsServices rfl)
  | upstreamLinkReset => exact .next (upstreamReset_keepsServices s)
  | postedWrite agent length words data => exact execPostedWrite_keepsServices agent length words data s
  | read agent tag length words data => exact .quiet (accessArrives_frame .read agent tag length words data s).steeringPart
  | nonPostedWrite agent tag length words data =>
    exact .quiet (accessArrives_frame .nonPostedWrite agent tag length words data s).steeringPart
  | exclusiveRead agent tag length words data =>
    exact .quiet (accessArrives_frame .exclusiveRead agent tag length words data s).steeringPart
  | exclusiveWrite agent tag length words data =>
    exact .quiet (accessArrives_frame .exclusiveWrite agent tag length words data s).steeringPart
  | exclusiveRelease agent tag words data =>
    exact .quiet (act := fun s => arriveRelease agent tag words data (spendCredit .nonPosted s))
      ((spendCredit_frame .nonPosted s).trans (arriveRelease_frame agent tag words data _)).steeringPart
  | managementRequest agent tag operation index words data =>
    exact .quiet (act := fun s => arriveManagement agent tag operation index words data (spendCredit .management s))
      ((spendCredit_frame .management s).trans
        (arriveManagement_frame agent tag operation index words data _)).steeringPart
  | serviceDone agent vector words data => exact .event (arriveServiceDone_keepsServices agent vector words data s)
  | unknownKindPacket kind agent => exact .quiet (storeRecord_steeringPart _ s)
  | postedIntakeExit => exact .quiet (exitHeadsAndTest_frame s).steeringPart
  | nonPostedIntakeExit => exact execNonPostedIntakeExit_keepsServices s
  | postedWriteSend port => exact execPostedWriteSend_keepsServices port s
  | nonPostedSend port => exact execNonPostedSend_keepsServices port s
  | readyMessage port postedGrant nonPostedGrant => exact .quiet (takeReady_steeringPart port _ _ s)
  | creditReturn port lane count =>
    exact .event (ifActive_keepsServices port (.of_same (takeCredit_steeringPart port lane _ s)))
  | receipt port seq => exact .event (ifActive_keepsServices port (.of_same (takeReceipt_steeringPart port seq s)))
  | completionPiece port tag status offset count data =>
    exact .event (ifActive_keepsServices port (.of_same (takePiece_steeringPart port tag status _ _ data s)))
  | interruptMessage port vector =>
    exact .event (ifActive_keepsServices port (takeInterrupt_keepsServices port vector s))
  | malformedMessage port => exact .event (ifActive_keepsServices port (.of_same (failPort_steeringPart port _ none s)))
  | portLinkFault port => exact execPortLinkFault_keepsServices port s
  | completionTimerExpiry slot => exact execCompletionTimerExpiry_keepsServices slot s
  | orphanTimerExpiry slot => exact execOrphanTimerExpiry_keepsServices slot s
  | holdTimerExpiry port => exact execHoldTimerExpiry_keepsServices port s
  | commitDrainEnd => exact .idle (endDrainIfDone_frame s).steeringPart
  | managementTake => exact .idle (takeManagementHead_frame s).steeringPart
  | undefinedOperation => exact .quietEnd (fun _ _ => rfl) s
  | readRegister => exact .quietEnd (fun r s => (readRegisterRule_frame r s).steeringPart) s
  | readErrorQueueStatus => exact .quietEnd (fun r s => (readErrorStatusRule_frame r s).steeringPart) s
  | writeRegister => exact .quietEnd (fun _ _ => rfl) s
  | writeManagementAgentMask => exact .quietEnd (fun r s => (writeMaskRule_frame r s).steeringPart) s
  | writeMissPolicy => exact .quietEnd (fun _ _ => rfl) s
  | writeCompletionTimeout => exact .quietEnd (fun r s => (writeTimeoutRule_frame r s).steeringPart) s
  | writeExclusiveHoldLimit => exact .quietEnd (fun r s => (writeHoldRule_frame r s).steeringPart) s
  | writeAgentInterruptMasks => exact .executionEnd writeMasksRule_keepsServices s
  | stageWindow => exact .quietEnd (fun r s => (stageWindowRule_frame r s).steeringPart) s
  | readWindow => exact .quietEnd (fun r s => (readWindowRule_frame r s).steeringPart) s
  | commitWindows => exact execCommitWindows_keepsServices s
  | portControlEnable => exact .quietEnd portControlRule_steeringPart s
  | portControlDisable => exact .quietEnd portControlRule_steeringPart s
  | portControlRestart => exact .quietEnd portControlRule_steeringPart s
  | writeVector => exact .executionEnd writeVectorRule_keepsServices s
  | readVector => exact .quietEnd (fun _ _ => rfl) s
  | takeErrorRecord => exact .quietEnd (fun r s => (takeRecordRule_frame r s).steeringPart) s
  | bridgeTimeAdvance => exact .idle rfl
  | egressTransmission => exact execEgressTransmission_keepsServices s

/-- A step keeps both laws: the command it takes runs on a state that differs from the one before in the queue of commands
alone. -/
theorem step_keepsServices {s t : State} (h : step s = .next t) : KeepsServices s t := by
  unfold step at h
  split at h
  · cases h
    exact .refl s
  · next c rest _ => exact (exec_keepsServices c _ t h).from_same rfl

/-- Settles O59: every change of an entry's service changes its agent's count with it. -/
theorem serviceCountsExactKept : Obligations.ServiceCountsExactKept := by
  unfold Obligations.ServiceCountsExactKept
  exact fun _ _ h hstep => (step_keepsServices hstep).counts h

/-- Settles O60: what makes an entry Pending, or changes its fields or the masks, steers it in the same event. -/
theorem pendingBlockedKept : Obligations.PendingBlockedKept := by
  unfold Obligations.PendingBlockedKept
  exact fun _ _ h hstep => (step_keepsServices hstep).blocked h

end Sys2Proof.Machine
end

section
/-! PROOFS. What the steering unit does for one vector (R146, R147, R149, R150, R152), and the first record's raise of vector 0
(R151, R177). -/

namespace Sys2Proof.Machine

/-! ## Records (R151, R177) -/

theorem storeRecord_records_ne_nil {b : RecordBody} {s : State} (h : s.records = []) : (storeRecord b s).records ≠ [] := by
  rw [storeRecord_room (by rw [h]; decide)]
  exact List.concat_ne_nil _ _

/-- R151: the first record stored into an empty queue raises vector 0. -/
theorem raiseOnFirstRecord_first {s t : State} (hs : s.records = []) (ht : t.records ≠ []) :
    raiseOnFirstRecord s t = raiseVector 0 t := by
  simp [raiseOnFirstRecord, hs, ht]

/-- Settles O9. -/
theorem recordsAreStoredOrLost : Obligations.RecordsAreStoredOrLost := by
  unfold Obligations.RecordsAreStoredOrLost
  exact fun body s => ⟨storeRecord_room, storeRecord_full,
    fun h => raiseOnFirstRecord_first h (storeRecord_records_ne_nil h), raiseOnFirstRecord_nonempty⟩

/-! ## A raise and a steer (R146, R147) -/

theorem raiseVector_idle {v : VectorId} {s : State} (h : (peek s.vectors v).state = .idle) :
    raiseVector v s = steer v (setVectorState v .pending s) := by
  simp only [raiseVector, h]

theorem raiseVector_pending {v : VectorId} {s : State} (h : (peek s.vectors v).state = .pending) : raiseVector v s = s := by
  simp only [raiseVector, h]

theorem raiseVector_inService {v : VectorId} {a : Agent} {s : State} (h : (peek s.vectors v).state = .inService a) :
    raiseVector v s = { s with vectors := poke s.vectors v { peek s.vectors v with again := true } } := by
  simp only [raiseVector, h]

/-- Settles O37. -/
theorem raiseFollowsTheEntryState : Obligations.RaiseFollowsTheEntryState := by
  unfold Obligations.RaiseFollowsTheEntryState
  exact fun v s => ⟨raiseVector_idle, raiseVector_pending, fun a => raiseVector_inService,
    (raiseVector_frame v s).records, (raiseVector_frame v s).overflow⟩

/-- Settles O38: no agent is chosen exactly when none is eligible. -/
theorem steerDeliversAnOwedInterrupt : Obligations.SteerDeliversAnOwedInterrupt := by
  unfold Obligations.SteerDeliversAnOwedInterrupt
  intro v s e
  refine ⟨fun a hpending henabled hchoice => steer_delivers hpending henabled hchoice, fun h => steer_eq_self ?_⟩
  exact h.imp_right (Or.imp_right (chooseAgent_eq_none_iff _ _ _).2)

/-! ## Service Done (R149, R150, R152) -/

/-- A Service Done of its word 0 alone, from an agent and for a vector in range, is taken by the steering unit. -/
theorem exec_serviceDone (a : Agent) (v : VectorId) (s : State) :
    exec (.serviceDone (BitVec.ofNat 4 a.val) (BitVec.ofNat 7 v.val) [] []) s =
      .next (raiseOnFirstRecord s (takeServiceDone a v s)) := by
  have harrives : arriveServiceDone (BitVec.ofNat 4 a.val) (BitVec.ofNat 7 v.val) [] [] s = takeServiceDone a v s := by
    rw [arriveServiceDone, agentOfField_ofNat, vectorOfField_ofNat]
    rfl
  exact congrArg (fun t => Host.Outcome.next (raiseOnFirstRecord s t)) harrives

theorem takeServiceDone_fits {a : Agent} {v : VectorId} {s : State} (h : (peek s.vectors v).state = .inService a) :
    takeServiceDone a v s = endService v a s := by
  simp only [takeServiceDone, h, if_true]

theorem takeServiceDone_otherAgent {a b : Agent} {v : VectorId} {s : State} (h : (peek s.vectors v).state = .inService b)
    (hba : b ≠ a) : takeServiceDone a v s = storeRecord (.serviceMismatch a v .otherAgent) s := by
  simp only [takeServiceDone, h, hba, if_false]

/-- An entry that its service leaves Idle is not steered. -/
theorem endService_idle {v : VectorId} {s : State} (a : Agent) (h : serviceGoesOn v s = false) :
    endService v a s = serviceEnded v a .idle s := by
  rw [endService_eq, h, if_neg nofun]
  refine steer_eq_self (.inl ?_)
  have hvectors : (serviceEnded v a .idle s).vectors =
      poke s.vectors v { peek s.vectors v with state := .idle, again := false } := rfl
  rw [hvectors, peek_poke_same]
  exact nofun

theorem endService_pending {v : VectorId} {s : State} (a : Agent) (h : serviceGoesOn v s = true) :
    endService v a s = steer v (serviceEnded v a .pending s) := by
  rw [endService_eq, if_pos h]

/-- R149: a fitting Service Done makes no record, so it raises nothing. -/
theorem exec_serviceDone_fits {a : Agent} {v : VectorId} {s : State} (h : (peek s.vectors v).state = .inService a) :
    exec (.serviceDone (BitVec.ofNat 4 a.val) (BitVec.ofNat 7 v.val) [] []) s = .next (endService v a s) := by
  rw [exec_serviceDone, takeServiceDone_fits h, raiseOnFirstRecord_same (endService_frame v a s).records]

/-- Settles O40: a vector above 0 goes on by its again flag. -/
theorem fittingServiceDoneEndsTheService : Obligations.FittingServiceDoneEndsTheService := by
  unfold Obligations.FittingServiceDoneEndsTheService
  intro a v s hv h e ended
  have hgoesOn : serviceGoesOn v s = e.again := if_neg hv
  refine (exec_serviceDone_fits h).trans (congrArg Host.Outcome.next ?_)
  split
  · next hagain => exact endService_pending a (hgoesOn.trans hagain)
  · next hagain => exact endService_idle a (hgoesOn.trans (Bool.eq_false_iff.2 hagain))

/-- Settles O41: vector 0 goes on while the queue holds a record. -/
theorem vectorZeroServiceGoesByTheQueue : Obligations.VectorZeroServiceGoesByTheQueue := by
  unfold Obligations.VectorZeroServiceGoesByTheQueue
  intro a s h ended
  have hgoesOn : serviceGoesOn 0 s = !s.records.isEmpty := if_pos rfl
  refine (exec_serviceDone_fits h).trans (congrArg Host.Outcome.next ?_)
  split
  · next hempty => exact endService_idle a (by rw [hgoesOn, hempty]; rfl)
  · next hrecords => exact endService_pending a (by simpa [hgoesOn] using hrecords)

/-- Settles O42. -/
theorem misfitServiceDoneMakesARecord : Obligations.MisfitServiceDoneMakesARecord := by
  unfold Obligations.MisfitServiceDoneMakesARecord
  intro a v s mismatch
  have hmakes : ∀ {cause}, takeServiceDone a v s = storeRecord (.serviceMismatch a v cause) s → mismatch cause :=
    fun h => (exec_serviceDone a v s).trans (congrArg (fun t => Host.Outcome.next (raiseOnFirstRecord s t)) h)
  refine ⟨fun h => hmakes ?_, fun h => hmakes ?_, fun b h hba => hmakes (takeServiceDone_otherAgent h hba)⟩
  · simp only [takeServiceDone, h]
  · simp only [takeServiceDone, h]

end Sys2Proof.Machine
end

section
/-! PROOFS. The agent chosen for an entry (R144, R145). -/

namespace Sys2Proof.Machine

/-! ## Eligible agents (R144) -/

theorem eligibleAgent_fixed_iff {e : VectorEntry} (h : e.mode = .fixed) (masks : AgentSet) (a : Agent) :
    eligibleAgent e masks a = true ↔ a = e.fixedAgent ∧ masks.getLsbD a.val = false := by
  simp [eligibleAgent, h, hasAgent]

/-- In the other two modes the agent set says who is eligible. -/
theorem eligibleAgent_set_iff {e : VectorEntry} (h : e.mode ≠ .fixed) (masks : AgentSet) (a : Agent) :
    eligibleAgent e masks a = true ↔ e.agents.getLsbD a.val = true ∧ masks.getLsbD a.val = false := by
  cases hmode : e.mode with
  | fixed => exact absurd hmode h
  | rotate => simp [eligibleAgent, hmode, hasAgent]
  | leastBusy => simp [eligibleAgent, hmode, hasAgent]

theorem chooseAgent_none_iff_not_eligible (e : VectorEntry) (masks : AgentSet) (busy : Vector Nat 8) :
    chooseAgent e masks busy = none ↔ ∀ a, ¬ eligibleAgent e masks a = true := by
  simp only [chooseAgent_eq_none_iff, Bool.not_eq_true]

/-! ## Fixed -/

theorem chooseAgent_eligible_fixed {e : VectorEntry} {masks : AgentSet} {busy : Vector Nat 8} {a : Agent}
    (h : e.mode = .fixed) (ha : chooseAgent e masks busy = some a) : eligibleAgent e masks a = true := by
  simp only [chooseAgent, h] at ha
  exact List.find?_some ha

theorem chooseAgent_fixed {e : VectorEntry} (h : e.mode = .fixed) (masks : AgentSet) (busy : Vector Nat 8) :
    chooseAgent e masks busy = if masks.getLsbD e.fixedAgent.val = true then none else some e.fixedAgent := by
  split
  · next hmasked =>
    refine (chooseAgent_none_iff_not_eligible _ _ _).2 fun a ha => ?_
    obtain ⟨rfl, hclear⟩ := (eligibleAgent_fixed_iff h masks a).1 ha
    exact absurd (hmasked.symm.trans hclear) nofun
  · next hclear =>
    have hfits := (eligibleAgent_fixed_iff h masks e.fixedAgent).2 ⟨rfl, Bool.eq_false_iff.2 hclear⟩
    cases hchoice : chooseAgent e masks busy with
    | none => exact absurd hfits ((chooseAgent_none_iff_not_eligible _ _ _).1 hchoice _)
    | some a =>
      obtain ⟨rfl, -⟩ := (eligibleAgent_fixed_iff h masks a).1 (chooseAgent_eligible_fixed h hchoice)
      rfl

/-! ## Rotate -/

/-- R145: the first agent upward from the cursor that meets a condition. -/
theorem find_rotationFrom (cursor : Agent) (p : Agent → Bool) (a : Agent) :
    (rotationFrom cursor).find? p = some a ↔
      ∃ k : Fin 8, a = cursor + 1 + k ∧ p a = true ∧ ∀ j, j < k → ¬ p (cursor + 1 + j) = true := by
  rw [List.find?_eq_some_iff_getElem]
  constructor
  · rintro ⟨ha, i, hi, rfl, hbefore⟩
    have hi8 : i < 8 := by simpa [rotationFrom, allAgents] using hi
    refine ⟨⟨i, hi8⟩, by simp [rotationFrom, allAgents], ha, fun j hj => ?_⟩
    simpa [rotationFrom, allAgents] using hbefore j.val hj
  · rintro ⟨k, rfl, ha, hbefore⟩
    refine ⟨ha, k.val, by simp [rotationFrom, allAgents], by simp [rotationFrom, allAgents], fun j hj => ?_⟩
    simpa [rotationFrom, allAgents] using hbefore ⟨j, hj.trans k.isLt⟩ hj

/-! ## LeastBusy -/

/-- R145: the lower count goes before the higher, and the lower number before the higher where the counts are equal. -/
def busyRank (busy : Vector Nat 8) (a : Agent) : Nat ×ₗ Agent := toLex (peek busy a, a)

theorem busyRank_le_iff (busy : Vector Nat 8) (a b : Agent) :
    busyRank busy a ≤ busyRank busy b ↔ peek busy a < peek busy b ∨ (peek busy a = peek busy b ∧ a ≤ b) :=
  Prod.Lex.toLex_le_toLex

theorem busyRank_injective (busy : Vector Nat 8) : Function.Injective (busyRank busy) :=
  fun _ _ h => (Prod.mk.inj (toLex_inj.1 h)).2

/-- Of two agents in order, the one kept is the lower in rank. -/
theorem lessBusy_some {busy : Vector Nat 8} {b a : Agent} (h : b < a) :
    ∃ c, lessBusy busy (some b) a = some c ∧ (c = b ∨ c = a) ∧ busyRank busy c ≤ busyRank busy b ∧
      busyRank busy c ≤ busyRank busy a := by
  unfold lessBusy
  dsimp only
  split
  · next hlt => exact ⟨a, rfl, .inr rfl, (busyRank_le_iff _ _ _).2 (.inl hlt), le_rfl⟩
  · next hge =>
    refine ⟨b, rfl, .inl rfl, le_rfl, (busyRank_le_iff _ _ _).2 ?_⟩
    obtain hlt | heq := Nat.lt_or_eq_of_le (Nat.le_of_not_lt hge)
    · exact .inl hlt
    · exact .inr ⟨heq, h.le⟩

/-- R145: the choice over candidates in order is one of them, the lowest in rank. -/
theorem lessBusy_foldl (busy : Vector Nat 8) (l : List Agent) : ∀ b, (b :: l).Pairwise (· < ·) →
    ∃ c ∈ b :: l, l.foldl (lessBusy busy) (some b) = some c ∧ ∀ x ∈ b :: l, busyRank busy c ≤ busyRank busy x := by
  induction l with
  | nil => exact fun b _ => ⟨b, List.mem_cons_self, rfl, fun x hx => by rw [List.mem_singleton.1 hx]⟩
  | cons a l ih =>
    intro b hsorted
    obtain ⟨hb, hrest⟩ := List.pairwise_cons.1 hsorted
    obtain ⟨ha, hl⟩ := List.pairwise_cons.1 hrest
    obtain ⟨kept, hkept, hone, hle_b, hle_a⟩ := lessBusy_some (busy := busy) (hb a List.mem_cons_self)
    have hkept_sorted : (kept :: l).Pairwise (· < ·) := by
      refine List.pairwise_cons.2 ⟨fun x hx => ?_, hl⟩
      obtain rfl | rfl := hone
      · exact hb x (List.mem_cons_of_mem _ hx)
      · exact ha x hx
    obtain ⟨c, hc, hfold, hleast⟩ := ih kept hkept_sorted
    have hc_kept := hleast kept List.mem_cons_self
    refine ⟨c, ?_, by rw [List.foldl_cons, hkept, hfold], fun x hx => ?_⟩
    · obtain rfl | hcl := List.mem_cons.1 hc
      · obtain rfl | rfl := hone <;> simp
      · simp [hcl]
    · obtain rfl | hx := List.mem_cons.1 hx
      · exact hc_kept.trans hle_b
      · obtain rfl | hx := List.mem_cons.1 hx
        · exact hc_kept.trans hle_a
        · exact hleast x (List.mem_cons_of_mem _ hx)

/-- The agent chosen from the candidates is eligible and the lowest in rank of the eligible agents. -/
theorem chooseAgent_leastBusy_spec {e : VectorEntry} {masks : AgentSet} {busy : Vector Nat 8} {a : Agent}
    (h : e.mode = .leastBusy) (ha : chooseAgent e masks busy = some a) :
    eligibleAgent e masks a = true ∧ ∀ b, eligibleAgent e masks b = true → busyRank busy a ≤ busyRank busy b := by
  have hmem : ∀ b, b ∈ allAgents.filter (eligibleAgent e masks) ↔ eligibleAgent e masks b = true := fun b => by
    simp [allAgents]
  have hsorted : (allAgents.filter (eligibleAgent e masks)).Pairwise (· < ·) :=
    (List.pairwise_lt_finRange 8).filter _
  simp only [chooseAgent, h] at ha
  generalize allAgents.filter (eligibleAgent e masks) = candidates at hmem hsorted ha
  cases candidates with
  | nil => cases ha
  | cons b l =>
    obtain ⟨c, hc, hfold, hleast⟩ := lessBusy_foldl busy l b hsorted
    cases hfold.symm.trans ha
    exact ⟨(hmem _).1 hc, fun x hx => hleast x ((hmem x).2 hx)⟩

theorem chooseAgent_leastBusy_iff {e : VectorEntry} (h : e.mode = .leastBusy) (masks : AgentSet) (busy : Vector Nat 8)
    (a : Agent) :
    chooseAgent e masks busy = some a ↔
      eligibleAgent e masks a = true ∧ ∀ b, eligibleAgent e masks b = true → busyRank busy a ≤ busyRank busy b := by
  refine ⟨chooseAgent_leastBusy_spec h, fun ⟨hfits, hleast⟩ => ?_⟩
  cases hchoice : chooseAgent e masks busy with
  | none => exact absurd hfits ((chooseAgent_none_iff_not_eligible _ _ _).1 hchoice a)
  | some c =>
    obtain ⟨hc, hcleast⟩ := chooseAgent_leastBusy_spec h hchoice
    rw [busyRank_injective busy (le_antisymm (hcleast a hfits) (hleast c hc))]

/-- Settles O39: the choice of each mode, over the agents that R144 makes eligible. -/
theorem choiceFollowsTheMode : Obligations.ChoiceFollowsTheMode := by
  unfold Obligations.ChoiceFollowsTheMode
  intro e masks busy fits
  have hset : e.mode ≠ .fixed → ∀ a, eligibleAgent e masks a = true ↔ fits a := fun h a => eligibleAgent_set_iff h masks a
  have hnone : e.mode ≠ .fixed → (chooseAgent e masks busy = none ↔ ∀ a, ¬ fits a) := fun h =>
    (chooseAgent_none_iff_not_eligible e masks busy).trans (forall_congr' fun a => not_congr (hset h a))
  refine ⟨fun a => ?_, fun h => chooseAgent_fixed h masks busy, fun h => ?_, fun h => ?_⟩
  · split
    · next h => exact eligibleAgent_fixed_iff h masks a
    · next h => exact hset h a
  · have hmode : e.mode ≠ .fixed := by rw [h]; exact nofun
    have hchoice : chooseAgent e masks busy = (rotationFrom e.cursor).find? (eligibleAgent e masks) := by
      simp only [chooseAgent, h]
    refine ⟨fun a => ?_, hnone hmode⟩
    simp only [hchoice, find_rotationFrom, hset hmode]
  · have hmode : e.mode ≠ .fixed := by rw [h]; exact nofun
    refine ⟨fun a => ?_, hnone hmode⟩
    simp only [chooseAgent_leastBusy_iff h, busyRank_le_iff, hset hmode]

end Sys2Proof.Machine
end

section
/-! PROOFS. The management requests on vectors, and the re-steer (R154, R155, R157, R187). -/

namespace Sys2Proof.Machine

section Requests

variable {r : ManagementEntry} {v : VectorId} {s : State}

theorem vectorOfIndex_of (hi : r.index = BitVec.ofNat 6 v.val) : vectorOfIndex r.index = v := by rw [hi, vectorOfIndex_ofNat]

theorem writeVectorRule_invalid {w : Word} (hw : r.words = [w]) (h : modeOfCode (w.extractLsb' 1 2) = none) (t : State) :
    writeVectorRule r t = answerInvalid t := by
  have hmode : modeOfCode (bits w 1 2) = none := h
  simp only [writeVectorRule, valueWord_single hw, hmode]

/-- R154: the four fields take the values carried, and every entry that waits is steered. -/
theorem writeVectorRule_writes {w : Word} {mode : SteerMode} (hi : r.index = BitVec.ofNat 6 v.val) (hw : r.words = [w])
    (h : modeOfCode (w.extractLsb' 1 2) = some mode) (t : State) :
    writeVectorRule r t =
      answerDone (resteer { t with vectors := poke t.vectors v (writtenEntry w mode (peek t.vectors v)) }) := by
  have hmode : modeOfCode (bits w 1 2) = some mode := h
  simp only [writeVectorRule, valueWord_single hw, hmode, vectorOfIndex_of hi]

/-- R154: a WRITE VECTOR with its one word, by an agent of the mask, is answered by its rule. -/
theorem writeVector_answered {w : Word} (hc : s.current = some r) (ho : r.operation = 6) (hw : r.words = [w])
    (hm : hasAgent s.managementMask r.agent = true) {st : Status} {t : State}
    (ha : writeVectorRule r { s with current := none } = { after := t, status := st, words := [] })
    (hr : t.records = s.records) :
    exec .writeVector s =
      .next (appendCompletion { agent := r.agent, tag := r.tag, status := st, data := [], words := [] } t) := by
  have hop : operationOfCode r.operation = some .writeVector := congrArg operationOfCode ho
  exact executionEnd_answered hc (hasOperation_of hop) hop (.inr hm) (by rw [hw]; rfl) ha hr

/-- R155: a READ VECTOR, by any agent, reports the entry. -/
theorem readVector_reports (hc : s.current = some r) (hi : r.index = BitVec.ofNat 6 v.val) (ho : r.operation = 7)
    (hw : r.words = []) :
    exec .readVector s =
      .next (appendCompletion
        { agent := r.agent, tag := r.tag, status := .done, data := [], words := vectorWords (peek s.vectors v) }
        { s with current := none }) := by
  have hop : operationOfCode r.operation = some .readVector := congrArg operationOfCode ho
  have hrule : readVectorRule r { s with current := none } =
      { after := { s with current := none }, status := .done, words := vectorWords (peek s.vectors v) } := by
    rw [readVectorRule, vectorOfIndex_of hi]
  exact executionEnd_answered hc (hasOperation_of hop) hop (.inl rfl) (by rw [hw]; rfl) hrule rfl

end Requests

/-- Settles O51. -/
theorem vectorsAreWrittenAndRead : Obligations.VectorsAreWrittenAndRead := by
  unfold Obligations.VectorsAreWrittenAndRead
  refine ⟨⟨rfl, rfl, rfl, rfl, fun c => rfl⟩, fun r v s hc hi => ?_, fun s =>
    ⟨rfl, fun v h => resteer_entry_eq h, resteer_frame s⟩⟩
  intro idle answered e
  refine ⟨fun w ho hw hm => ⟨fun hcode => ?_, fun mode hmode => ?_⟩, readVector_reports hc hi⟩
  · have hnone : modeOfCode (w.extractLsb' 1 2) = none := by rw [hcode]; rfl
    exact writeVector_answered hc ho hw hm (writeVectorRule_invalid hw hnone idle) rfl
  · exact writeVector_answered hc ho hw hm (writeVectorRule_writes hi hw hmode idle) (resteer_frame _).records

end Sys2Proof.Machine
end

section
/-! PROOFS. The words of a window entry and of a vector entry (12.3, R154, R155, R170, R187). -/

namespace Sys2Proof.Machine

open Laws (field_middle toNat_append_assoc)

/-! ## Window entries -/

/-- A one-bit field, read as a bit. -/
theorem getLsbD_of_field {w : Word} {i : Nat} {b : Bool} (h : field w i 1 = BitVec.ofBool b) : w.getLsbD i = b := by
  have hbit := congrArg (fun x => x.getLsbD 0) h
  simpa [field] using hbit

/-- A field at the top of a word. -/
theorem field_top {b c : Nat} (y : BitVec b) (z : BitVec c) {w : Word} (h : w.toNat = (y ++ z).toNat) : field w c b = y :=
  field_middle 0#0 y z w (h.trans (by simp [BitVec.toNat_append]))

/-- Word 0 of a window entry: the page, the target and the valid bit. -/
def targetWord (valid : Bool) (target : BitVec 3) (base : Page) : Word := BitVec.ofBool valid ++ target ++ base

theorem targetWord_base (valid : Bool) (target : BitVec 3) (base : Page) :
    (targetWord valid target base).extractLsb' 0 28 = base :=
  field_middle (BitVec.ofBool valid ++ target) base 0#0 _ (by simp [targetWord])

theorem targetWord_target (valid : Bool) (target : BitVec 3) (base : Page) :
    (targetWord valid target base).extractLsb' 28 3 = target := field_middle (BitVec.ofBool valid) target base _ rfl

theorem targetWord_valid (valid : Bool) (target : BitVec 3) (base : Page) :
    (targetWord valid target base).getLsbD 31 = valid :=
  getLsbD_of_field (field_top (BitVec.ofBool valid) (target ++ base) (toNat_append_assoc (BitVec.ofBool valid) target base))

/-- Word 1 of a window entry: the page, the three rights and the prefetchable bit. -/
def rightsWord (prefetchable exclusive write read : Bool) (limit : Page) : Word :=
  BitVec.ofBool prefetchable ++ BitVec.ofBool exclusive ++ BitVec.ofBool write ++ BitVec.ofBool read ++ limit

section Rights

variable (prefetchable exclusive write read : Bool) (limit : Page)

theorem rightsWord_limit : (rightsWord prefetchable exclusive write read limit).extractLsb' 0 28 = limit :=
  field_middle (BitVec.ofBool prefetchable ++ BitVec.ofBool exclusive ++ BitVec.ofBool write ++ BitVec.ofBool read) limit 0#0 _
    (by simp [rightsWord])

theorem rightsWord_read : (rightsWord prefetchable exclusive write read limit).getLsbD 28 = read :=
  getLsbD_of_field (field_middle (BitVec.ofBool prefetchable ++ BitVec.ofBool exclusive ++ BitVec.ofBool write)
    (BitVec.ofBool read) limit _ rfl)

theorem rightsWord_write : (rightsWord prefetchable exclusive write read limit).getLsbD 29 = write :=
  getLsbD_of_field (field_middle (BitVec.ofBool prefetchable ++ BitVec.ofBool exclusive) (BitVec.ofBool write)
    (BitVec.ofBool read ++ limit) _ (toNat_append_assoc _ (BitVec.ofBool read) limit))

theorem rightsWord_exclusive : (rightsWord prefetchable exclusive write read limit).getLsbD 30 = exclusive :=
  getLsbD_of_field (field_middle (BitVec.ofBool prefetchable) (BitVec.ofBool exclusive)
    (BitVec.ofBool write ++ (BitVec.ofBool read ++ limit)) _
    ((toNat_append_assoc _ (BitVec.ofBool read) limit).trans (toNat_append_assoc _ (BitVec.ofBool write) _)))

theorem rightsWord_prefetchable : (rightsWord prefetchable exclusive write read limit).getLsbD 31 = prefetchable :=
  getLsbD_of_field (field_top (BitVec.ofBool prefetchable)
    (BitVec.ofBool exclusive ++ (BitVec.ofBool write ++ (BitVec.ofBool read ++ limit)))
    (((toNat_append_assoc _ (BitVec.ofBool read) limit).trans (toNat_append_assoc _ (BitVec.ofBool write) _)).trans
      (toNat_append_assoc _ (BitVec.ofBool exclusive) _)))

end Rights

/-- Word 2 of a window entry: the downstream page, the class and the domain. -/
def classWord (domain : Domain) (cls : BitVec 1) (downBase : Page) : Word := 0#1 ++ domain ++ cls ++ downBase

theorem classWord_downBase (domain : Domain) (cls : BitVec 1) (downBase : Page) :
    (classWord domain cls downBase).extractLsb' 0 28 = downBase :=
  field_middle (0#1 ++ domain ++ cls) downBase 0#0 _ (by simp [classWord])

theorem classWord_class (domain : Domain) (b : Bool) (downBase : Page) :
    (classWord domain (BitVec.ofBool b) downBase).getLsbD 28 = b :=
  getLsbD_of_field (field_middle (0#1 ++ domain) (BitVec.ofBool b) downBase _ rfl)

theorem classWord_domain (domain : Domain) (cls : BitVec 1) (downBase : Page) :
    (classWord domain cls downBase).extractLsb' 29 2 = domain :=
  field_middle 0#1 domain (cls ++ downBase) _ (toNat_append_assoc _ cls downBase)

theorem agentsWord_agents (agents : AgentSet) : (0#24 ++ agents : Word).extractLsb' 0 8 = agents :=
  field_middle 0#24 agents 0#0 _ (by simp)

theorem targetOfCode_none {c : BitVec 3} (h : 5 ≤ c.toNat) : targetOfCode c = none := by
  have hne : c ≠ 4#3 := fun e => by rw [e] at h; exact absurd h (by decide)
  rw [targetOfCode, dif_neg (by omega), if_neg hne]

theorem windowOfWords_none {w0 : Word} (w1 w2 w3 : Word) (h : 5 ≤ (w0.extractLsb' 28 3).toNat) :
    windowOfWords w0 w1 w2 w3 = none := by
  have hcode : targetOfCode (bits w0 28 3) = none := targetOfCode_none h
  rw [windowOfWords, hcode]

/-- R170: the entry that four words stage, by the target that their code names. -/
theorem windowOfWords_some {w0 : Word} {t : Target} (w1 w2 w3 : Word) (h : w0.extractLsb' 28 3 = targetCode t) :
    windowOfWords w0 w1 w2 w3 =
      some
        { valid := w0.getLsbD 31, base := w0.extractLsb' 0 28, limit := w1.extractLsb' 0 28, target := t,
          downBase := w2.extractLsb' 0 28, readRight := w1.getLsbD 28, writeRight := w1.getLsbD 29,
          exclusiveRight := w1.getLsbD 30, agents := w3.extractLsb' 0 8, prefetchable := w1.getLsbD 31,
          cls := if w2.getLsbD 28 = true then .relaxed else .strict, domain := w2.extractLsb' 29 2 } := by
  have hcode : targetOfCode (bits w0 28 3) = some t := (congrArg targetOfCode h).trans (targetOfCode_targetCode t)
  rw [windowOfWords, hcode]
  rfl

theorem windowWords_eq (w : WindowEntry) :
    windowWords w =
      [targetWord w.valid (targetCode w.target) w.base,
        rightsWord w.prefetchable w.exclusiveRight w.writeRight w.readRight w.limit,
        classWord w.domain (classBit w.cls) w.downBase, 0#24 ++ w.agents] := rfl

/-- R15, R170: the words read back stage the same entry. -/
theorem windowOfWords_windowWords (w : WindowEntry) :
    windowOfWords (targetWord w.valid (targetCode w.target) w.base)
      (rightsWord w.prefetchable w.exclusiveRight w.writeRight w.readRight w.limit)
      (classWord w.domain (classBit w.cls) w.downBase) (0#24 ++ w.agents) = some w := by
  have hcls : (if (classWord w.domain (classBit w.cls) w.downBase).getLsbD 28 = true then OrderClass.relaxed else .strict) =
      w.cls := by
    cases w.cls with
    | strict => exact if_neg (Bool.eq_false_iff.1 (classWord_class w.domain false w.downBase))
    | relaxed => exact if_pos (classWord_class w.domain true w.downBase)
  rw [windowOfWords_some _ _ _ (targetWord_target _ _ _), hcls, targetWord_base, targetWord_valid, rightsWord_limit,
    rightsWord_read, rightsWord_write, rightsWord_exclusive, rightsWord_prefetchable, classWord_downBase, classWord_domain,
    agentsWord_agents]

/-! ## Vector entries -/

/-- Word 0 of a vector entry: its four writable fields. -/
def writableWord (agents : AgentSet) (fixedAgent : BitVec 3) (mode : BitVec 2) (enabled : Bool) : Word :=
  0#16 ++ agents ++ 0#2 ++ fixedAgent ++ mode ++ BitVec.ofBool enabled

section Writable

variable (agents : AgentSet) (fixedAgent : BitVec 3) (mode : BitVec 2) (enabled : Bool)

theorem writableWord_enabled : (writableWord agents fixedAgent mode enabled).getLsbD 0 = enabled :=
  getLsbD_of_field (field_middle (0#16 ++ agents ++ 0#2 ++ fixedAgent ++ mode) (BitVec.ofBool enabled) 0#0 _
    (by simp [writableWord]))

theorem writableWord_mode : (writableWord agents fixedAgent mode enabled).extractLsb' 1 2 = mode :=
  field_middle (0#16 ++ agents ++ 0#2 ++ fixedAgent) mode (BitVec.ofBool enabled) _ rfl

theorem writableWord_fixedAgent : (writableWord agents fixedAgent mode enabled).extractLsb' 3 3 = fixedAgent :=
  field_middle (0#16 ++ agents ++ 0#2) fixedAgent (mode ++ BitVec.ofBool enabled) _ (toNat_append_assoc _ mode _)

theorem writableWord_agents : (writableWord agents fixedAgent mode enabled).extractLsb' 8 8 = agents :=
  field_middle 0#16 agents (0#2 ++ (fixedAgent ++ (mode ++ BitVec.ofBool enabled))) _
    (((toNat_append_assoc _ mode _).trans (toNat_append_assoc _ fixedAgent _)).trans (toNat_append_assoc _ 0#2 _))

end Writable

/-- Word 1 of a vector entry: the serving agent with the bit that marks its presence, the again flag, the state and the cursor. -/
def ownWord (serving : BitVec 4) (again : Bool) (state : BitVec 2) (cursor : BitVec 3) : Word :=
  0#21 ++ serving ++ BitVec.ofBool again ++ state ++ 0#1 ++ cursor

/-- The two fields that word 1 is made of stand apart by one bit. -/
theorem ownWord_eq (serving : BitVec 4) (again : Bool) (state : BitVec 2) (cursor : BitVec 3) :
    let own : BitVec 10 := serving ++ BitVec.ofBool again ++ state ++ cursor
    (0#21 ++ own.extractLsb' 3 7 ++ 0#1 ++ own.extractLsb' 0 3 : Word) = ownWord serving again state cursor := by
  have hhigh : (serving ++ BitVec.ofBool again ++ state ++ cursor : BitVec 10).extractLsb' 3 7 =
      serving ++ BitVec.ofBool again ++ state := BitVec.extractLsb'_append_eq_left
  have hlow : (serving ++ BitVec.ofBool again ++ state ++ cursor : BitVec 10).extractLsb' 0 3 = cursor :=
    BitVec.extractLsb'_append_eq_right
  have hassoc : (0#21 ++ (serving ++ BitVec.ofBool again ++ state) : BitVec 28) =
      0#21 ++ serving ++ BitVec.ofBool again ++ state :=
    BitVec.eq_of_toNat_eq ((toNat_append_assoc 0#21 (serving ++ BitVec.ofBool again) state).symm.trans
      (congrArg (fun x : BitVec 26 => (x ++ state).toNat) (BitVec.eq_of_toNat_eq (toNat_append_assoc 0#21 serving _).symm)))
  dsimp only
  rw [hhigh, hlow, hassoc]
  rfl

/-- The serving agent's field of an entry, with the bit that marks its presence. -/
def servingField : VectorState → BitVec 4
  | .inService a => agentCode a ++ 1#1
  | .pending => 0#4
  | .idle => 0#4

/-- The code of an entry's state. -/
def stateField : VectorState → BitVec 2
  | .idle => 0#2
  | .pending => 1#2
  | .inService _ => 2#2

theorem vectorWords_eq (e : VectorEntry) :
    vectorWords e =
      [writableWord e.agents (agentCode e.fixedAgent) (modeCode e.mode) e.enabled,
        ownWord (servingField e.state) e.again (stateField e.state) (agentCode e.cursor)] := by
  rw [← ownWord_eq]
  unfold vectorWords
  cases e.state <;> rfl

/-- Settles O48. -/
theorem windowAndVectorWordsRoundTrip : Obligations.WindowAndVectorWordsRoundTrip := by
  unfold Obligations.WindowAndVectorWordsRoundTrip
  intro code
  have hcode : ∀ t, targetCode t = code t := fun t => by cases t <;> rfl
  refine ⟨fun w => ?_, fun w0 w1 w2 w3 => ⟨windowOfWords_none w1 w2 w3, fun t ht => ?_⟩, fun e => ?_⟩
  · intro w0 w1 w2 w3
    have h0 : w0 = targetWord w.valid (targetCode w.target) w.base := by rw [hcode]; rfl
    have h2 : w2 = classWord w.domain (classBit w.cls) w.downBase := by
      unfold w2
      cases w.cls <;> rfl
    rw [h0, h2]
    exact ⟨windowWords_eq w, windowOfWords_windowWords w⟩
  · exact windowOfWords_some w1 w2 w3 (ht.trans (hcode t).symm)
  · refine ⟨_, _, vectorWords_eq e, ?_, writableWord_enabled _ _ _ _, writableWord_agents _ _ _ _, ?_, ?_, ?_⟩
    · rw [writableWord_mode, modeOfCode_modeCode]
    · rw [writableWord_fixedAgent, agentOfCode_agentCode]
    · cases e.mode <;> rfl
    · cases e.state <;> rfl

end Sys2Proof.Machine
end

section
/-! PROOFS. The management requests from outside the mask (R163 row 2, R164). -/

namespace Sys2Proof.Machine

/-! ## The Refused answer -/

/-- A request that has ended Refused: the unit is Idle, one record is stored, vector 0 is raised if it is the first, and the request
is answered (R163, R164). -/
def endedRefused (r : ManagementEntry) (s : State) : Host.Outcome State Fault Refusal :=
  .next (appendCompletion { agent := r.agent, tag := r.tag, status := .refused, data := [], words := [] }
    (raiseOnFirstRecord s (storeRecord (refusedRecord r) { s with current := none })))

section Requests

variable {r : ManagementEntry} {rule : ManagementEntry → State → Answer} {s : State}

/-- Log 6: any of the three rows names a PORT CONTROL whose operand is no operation code. -/
theorem portControlIs_undefined (code : Word) (ho : r.operation = 5) (h1 : r.words ≠ [1]) (h2 : r.words ≠ [2])
    (h3 : r.words ≠ [3]) : portControlIs code r = true := by
  have hop : operationOfCode r.operation = some .portControl := congrArg operationOfCode ho
  have hcodes : r.words ∉ [[1#32], [2#32], [3#32]] :=
    List.not_mem_cons_of_ne_of_not_mem h1 (List.not_mem_cons_of_ne_of_not_mem h2 (mt List.mem_singleton.1 h3))
  rw [portControlIs, hasOperation_of hop, decide_eq_false hcodes, Bool.not_false, Bool.or_true, Bool.and_true]

/-- R16: a commit that fails a check ends as any other request. -/
theorem exec_commitWindows_fails (hc : s.current = some r) (h : commitPasses r s = false) :
    exec .commitWindows s = executionEnd (hasOperation .commitWindows) busyRule s := by
  have hexec : exec .commitWindows s = execCommitWindows s := rfl
  simp only [hexec, execCommitWindows, hc, h, Bool.and_false, Bool.false_eq_true, if_false]

variable (hc : s.current = some r) (hm : hasAgent s.managementMask r.agent = false)

include hc hm

/-- R163 row 2: the operation's own rule and the number of operand words play no part. -/
theorem executionEnd_refused {named : ManagementEntry → Bool} {op : Operation} (hn : named r = true)
    (ho : operationOfCode r.operation = some op) (hr : isReadOperation op = false) :
    executionEnd named rule s = endedRefused r s := by
  rw [executionEnd_named hc hn, endRequest_refused ho hr hm, endedRefused]

/-- R163 row 2, for the rows that are named by the operation alone. -/
theorem executionEnd_operation_refused {op : Operation} (ho : operationOfCode r.operation = some op)
    (hr : isReadOperation op = false) : executionEnd (hasOperation op) rule s = endedRefused r s :=
  executionEnd_refused hc hm (hasOperation_of ho) ho hr

theorem registerWrite_refused {n : BitVec 6} (ho : r.operation = 1) (hi : r.index = n) :
    executionEnd (writesRegister n.toNat) rule s = endedRefused r s :=
  executionEnd_refused (op := .writeRegister) hc hm (writesRegister_of ho (congrArg BitVec.toNat hi))
    (congrArg operationOfCode ho) rfl

theorem exec_writeRegister_refused (ho : r.operation = 1) (hi : r.index = 0 ∨ 6 ≤ r.index.toNat) :
    exec .writeRegister s = endedRefused r s := by
  have hop : operationOfCode r.operation = some .writeRegister := congrArg operationOfCode ho
  have hindex : r.index.toNat = 0 ∨ 6 ≤ r.index.toNat := hi.imp_left (congrArg BitVec.toNat)
  exact executionEnd_refused hc hm (by simpa [hasOperation_of hop] using hindex) hop rfl

theorem exec_commitWindows_refused (ho : r.operation = 4) : exec .commitWindows s = endedRefused r s := by
  have hfails : commitPasses r s = false := by rw [commitPasses, hm, Bool.false_and, Bool.false_and]
  rw [exec_commitWindows_fails hc hfails]
  exact executionEnd_operation_refused hc hm (congrArg operationOfCode ho) rfl

theorem portControl_refused {code : Word} (ho : r.operation = 5) (hn : portControlIs code r = true) :
    executionEnd (portControlIs code) portControlRule s = endedRefused r s :=
  executionEnd_refused (op := .portControl) hc hm hn (congrArg operationOfCode ho) rfl

end Requests

/-- Settles O45: the mask is checked before the operand words and before the operation's rule. -/
theorem requestsOutsideTheMaskAreRefused : Obligations.RequestsOutsideTheMaskAreRefused := by
  unfold Obligations.RequestsOutsideTheMaskAreRefused
  refine ⟨fun m a => rfl, fun r s hc hm => ?_⟩
  intro refused
  have hrefused : endedRefused r s = refused := rfl
  rw [← hrefused]
  have hoperation : ∀ {c op rule}, operationOfCode c = some op → isReadOperation op = false → r.operation = c →
      executionEnd (hasOperation op) rule s = endedRefused r s :=
    fun hcode hr ho => executionEnd_operation_refused hc hm (ho ▸ hcode) hr
  have hport : ∀ {code}, r.operation = 5 → r.words = [code] →
      executionEnd (portControlIs code) portControlRule s = endedRefused r s :=
    fun ho hw => portControl_refused hc hm ho (portControlIs_of ho hw)
  refine ⟨registerWrite_refused hc hm, registerWrite_refused hc hm, registerWrite_refused hc hm, registerWrite_refused hc hm,
    registerWrite_refused hc hm, exec_writeRegister_refused hc hm, hoperation rfl rfl, exec_commitWindows_refused hc hm,
    hport, hport, hport, fun ho h1 h2 h3 => ?_, hoperation rfl rfl, hoperation rfl rfl⟩
  have hundefined : ∀ code, executionEnd (portControlIs code) portControlRule s = endedRefused r s :=
    fun code => portControl_refused hc hm ho (portControlIs_undefined code ho h1 h2 h3)
  exact ⟨hundefined 1, hundefined 2, hundefined 3⟩

end Sys2Proof.Machine
end

section
/-! PROOFS. TAKE ERROR RECORD, and the words of a record (R173, R178, R180, R187, 12.4). -/

namespace Sys2Proof.Machine

/-! ## The record that is taken (R173, R180) -/

section Take

variable {r : ManagementEntry} {s : State}

theorem takeRecordRule_oldest {x : ErrorRecord} {rest : List ErrorRecord} (h : s.records = x :: rest) :
    takeRecordRule r s = { after := { s with records := rest }, status := .done, words := recordWords x } := by
  simp only [takeRecordRule, h]

theorem takeRecordRule_empty (h : s.records = []) :
    takeRecordRule r s = { after := s, status := .done, words := [0, 0, 0, 0] } := by
  simp only [takeRecordRule, h, emptyIndication]

/-- R163, R164: a TAKE ERROR RECORD by an agent of the mask is answered by its rule. It raises no vector: it stores no record. -/
theorem takeErrorRecord_answered (hc : s.current = some r) (ho : r.operation = 8) (hw : r.words = [])
    (hm : hasAgent s.managementMask r.agent = true) {st : Status} {words : List Word} {t : State}
    (ha : takeRecordRule r { s with current := none } = { after := t, status := st, words := words })
    (hquiet : raiseOnFirstRecord s t = t) :
    exec .takeErrorRecord s =
      .next (appendCompletion { agent := r.agent, tag := r.tag, status := st, data := [], words := words } t) := by
  have hop : operationOfCode r.operation = some .takeErrorRecord := congrArg operationOfCode ho
  have hexec : exec .takeErrorRecord s = executionEnd (hasOperation .takeErrorRecord) takeRecordRule s := rfl
  rw [hexec, executionEnd_named hc (hasOperation_of hop), endRequest_passes hop (.inr hm) (by rw [hw]; rfl), ha, hquiet]

end Take

/-! ## The presence marks of a record (12.4) -/

/-- The presence marks of each kind of record: those of the fields it always has, and one for each field that it may have. -/
def kindMarks : RecordBody → BitVec 14
  | .malformed _ a t addr =>
    0b1000000000#10 ++ BitVec.ofBool addr.isSome ++ 0#1 ++ BitVec.ofBool t.isSome ++ BitVec.ofBool a.isSome
  | .duplicateTag .. => 0b00010000000011
  | .overrun .. => 0b10000000000001
  | .unmapped _ _ t => 0b000000000010#12 ++ BitVec.ofBool t.isSome ++ 1#1
  | .refused _ _ _ t => 0b000000000110#12 ++ BitVec.ofBool t.isSome ++ 1#1
  | .postedDropped .. => 0b00000000001101
  | .postedDiscarded .. => 0b10000001000100
  | .completionExpired .. => 0b10000000100111
  | .lateCompletion .. => 0b01000000100100
  | .orphanExpired .. => 0b00000000100100
  | .staleCompletion .. => 0b11000000100100
  | .portFault _ _ _ i => 0b10100000#8 ++ BitVec.ofBool i.isSome ++ 0b00100#5
  | .exclusiveBroken .. => 0b10100000000101
  | .exclusiveMisuse _ _ _ _ w => 0b100100000#9 ++ BitVec.ofBool w.isSome ++ 0b0011#4
  | .badInterrupt .. => 0b00000010000100
  | .serviceMismatch .. => 0b10000010000001
  | .managementRefused .. => 0b00001100000011
  | .upstreamReset _ => 0b00000001000000

theorem presenceMarks_recordFields (b : RecordBody) : presenceMarks (recordFields b) = kindMarks b := by
  cases b <;> simp only [presenceMarks, recordFields, kindMarks, bit, Option.isSome_some, Option.isSome_none]
  case malformed a t addr =>
    generalize addr.isSome = addressMark, t.isSome = tagMark, a.isSome = agentMark
    decide +revert
  case unmapped t =>
    generalize t.isSome = tagMark
    decide +revert
  case refused t =>
    generalize t.isSome = tagMark
    decide +revert
  case portFault i =>
    generalize i.isSome = slotMark
    decide +revert
  case exclusiveMisuse w =>
    generalize w.isSome = windowMark
    decide +revert
  all_goals rfl

/-! ## The words of a record (12.4) -/

/-- Word 0 of a record: its kind, its presence marks, and four of its fields. -/
def recordWord0 (request : BitVec 3) (port : BitVec 2) (tag : BitVec 5) (agent : BitVec 3) (marks : BitVec 14)
    (kind : BitVec 5) : Word := request ++ port ++ tag ++ agent ++ marks ++ kind

/-- Word 2 of a record: the high bits of its address, and four of its fields. -/
def recordWord2 (high : BitVec 8) (status : BitVec 4) (state : BitVec 3) (window : BitVec 5) (cause : BitVec 4) : Word :=
  0#8 ++ high ++ status ++ state ++ window ++ cause

/-- Word 3 of a record without an address: the five fields that stand there. -/
def recordWord3 (operation : BitVec 4) (index : BitVec 6) (vector : BitVec 7) (count : BitVec 9) (slot : BitVec 6) : Word :=
  operation ++ index ++ vector ++ count ++ slot

theorem recordWords_eq (x : ErrorRecord) :
    recordWords x =
      let f := recordFields x.body
      [recordWord0 (match f.requestKind with | some k => upKindCode k | none => 0) (indexBits 2 f.port) (indexBits 5 f.tag)
          (indexBits 3 f.agent) (kindMarks x.body) f.kind,
        x.time,
        recordWord2 (match f.address with | some a => a.extractLsb' 32 8 | none => 0)
          (match f.status with | some .good => 0 | some .fault => 1 | none => 0) (f.state.getD 0) (indexBits 5 f.window)
          (f.cause.getD 0),
        match f.address with
        | some a => a.extractLsb' 0 32
        | none => recordWord3 (f.operation.getD 0) (f.index.getD 0) (f.vector.getD 0) (BitVec.ofNat 9 (f.count.getD 0))
            (indexBits 6 f.slot)] := by
  rw [recordWords, presenceMarks_recordFields]
  rfl

theorem indexBits_none {n : Nat} (w : Nat) : indexBits w (none : Option (Fin n)) = 0 := rfl

/-- Settles O10: the words of each kind are its fields at their places; of a field that may be absent, both cases are looked at. -/
theorem takeErrorRecordTakesTheOldest : Obligations.TakeErrorRecordTakesTheOldest := by
  unfold Obligations.TakeErrorRecordTakesTheOldest
  refine ⟨fun r s hc ho hw hm => ⟨fun x rest h => ?_, fun h => ?_⟩, fun x => ?_⟩
  · exact takeErrorRecord_answered hc ho hw hm (takeRecordRule_oldest h)
      (raiseOnFirstRecord_nonempty (by rw [h]; exact List.cons_ne_nil x rest))
  · exact takeErrorRecord_answered hc ho hw hm (takeRecordRule_empty h) (raiseOnFirstRecord_same rfl)
  · intro agentField tagField windowField slotField portField requestField statusField word0 word2 word3 low high
    have hagent : ∀ a, indexBits 3 a = agentField a := fun a => by cases a <;> rfl
    have htag : ∀ t, indexBits 5 t = tagField t := fun t => by cases t <;> rfl
    have hwindow : ∀ w, indexBits 5 w = windowField w := fun w => by cases w <;> rfl
    have hslot : ∀ i, indexBits 6 i = slotField i := fun i => by cases i <;> rfl
    rw [recordWords_eq]
    obtain ⟨time, body⟩ := x
    cases body <;> simp only [recordFields, kindMarks, indexBits_none, Option.getD_some, Option.getD_none]
    case malformed a t addr =>
      rw [htag t, hagent a]
      cases addr <;> rfl
    case unmapped t => rw [htag t]; rfl
    case refused t => rw [htag t]; rfl
    case portFault state _ i =>
      rw [hslot i]
      cases state <;> rfl
    case exclusiveMisuse w => rw [hwindow w]; rfl
    case lateCompletion status => cases status <;> rfl
    case staleCompletion status _ => cases status <;> rfl
    all_goals rfl

end Sys2Proof.Machine
end

section
/-! PROOFS. A step on a queue with a front command, and on an empty queue (log 1). -/

namespace Sys2Proof.Machine

theorem step_eq_exec_front {c : Instr} {rest : List Instr} {s : State} (h : s.pending = c :: rest) :
    step s = exec c { s with pending := rest } := by
  rw [step, h]

theorem step_idles {s : State} (h : s.pending = []) : step s = .next s := by
  rw [step, h]

/-- Settles O1: the two cases of the queue, its front command and its rest, or empty. -/
theorem stepRunsTheFrontCommand : Obligations.StepRunsTheFrontCommand := by
  unfold Obligations.StepRunsTheFrontCommand
  exact ⟨fun _ _ _ => step_eq_exec_front, fun _ => step_idles⟩

end Sys2Proof.Machine
end
